-- ==== Sys2Proof/Word.lean ====
section
/-! DEFINITION. The word types of the block: bytes (spec/00_scope.md R8) and 7-bit I2C numbers (R84). -/

namespace Sys2Proof

/-- A byte: bit 0 has weight 1, bit 7 weight 0x80 (R8). -/
abbrev Byte := BitVec 8

/-- A 7-bit I2C slave address or slave register address (30_encoding.md R83, R84). -/
abbrev Reg7 := BitVec 7

end Sys2Proof
end

