-- ==== Sys2Proof/Syntax.lean ====
section
/-! DEFINITION. The argument enumerations (spec/10_state.md R21, R28) and the instructions: one constructor per row of
spec/opcode_table.json (30_encoding.md R80, R88). -/

namespace Sys2Proof

/-- R21: the three hardware variants. -/
inductive HardwareVariant where
  | revisionA | lite | rev1200
deriving DecidableEq, Repr

/-- R28: the trigger pins, in the source's order. -/
inductive Pin where
  | frontPanelA | frontPanelB | targetIO1 | targetIO2 | targetIO3 | targetIO4
deriving DecidableEq, Repr

/-- R28: how selected trigger pins combine. -/
inductive CollectionMode where
  | or | and | nand
deriving DecidableEq, Repr

/-- R28: the route modes of a target IO pin. -/
inductive RouteMode where
  | highZ | serialTX | serialRX | usiOut | usiIn | usiInOut | serialTXRX | gpioEnabled
deriving DecidableEq, Repr

/-- R28: TargetIO1..4, the numbered pins of IORoute bytes 0..3 (R36). -/
inductive TargetPin where
  | io1 | io2 | io3 | io4
deriving DecidableEq, Repr

/-- R40: the special pins of IORoute byte 6, special index 0, 1, 2. -/
inductive SpecialPin where
  | nRST | pdid | pdic
deriving DecidableEq, Repr

/-- R28: a GPIO pin, regular (TargetIO1..4) or special (nRST, PDID, PDIC). -/
inductive GPIOPin where
  | regular (p : TargetPin)
  | special (p : SpecialPin)
deriving DecidableEq, Repr

/-- R28: the GPIO states. -/
inductive GPIOState where
  | low | high | disabled
deriving DecidableEq, Repr

/-- R28: the glitch output channels. -/
inductive Channel where
  | a | b
deriving DecidableEq, Repr

/-- R28: the clock sources. -/
inductive ClockSource where
  | frontPanelA | frontPanelB | pllInput | targetIOIn | targetIOOut
deriving DecidableEq, Repr

/-- R28: what drives the target clock output. -/
inductive TargetClockOut where
  | disabled | clkgen | glitchModule
deriving DecidableEq, Repr

/-- R28: the trigger modules. -/
inductive TriggerModule where
  | basic | sadMatch | advancedPattern | decodeIO
deriving DecidableEq, Repr

/-- One request of the caller: a transport command (R80) or an operation (R88), with its arguments as the unsigned integers
of R89. An argument may lie outside its enumeration or range: the operation's own checks answer for it (R90, R213). -/
inductive Instr where
  | read (addr len : Nat)
  | write (addr : Nat) (payload : List Byte)
  | fieldSet (addr byteOff bitOff width inverted value : Nat)
  | fieldGet (addr byteOff bitOff width inverted : Nat)
  | setPin (pin enabled : Nat)
  | getPin (pin : Nat)
  | setCollectionMode (mode : Nat)
  | getCollectionMode
  | setIoRoute (pinIndex mode : Nat)
  | getIoRoute (pinIndex : Nat)
  | setGpioState (gpioPin state : Nat)
  | getGpioState (gpioPin : Nat)
  | setPowerState (enabled : Nat)
  | getPowerState
  | setGlitchOutEn (channel enabled : Nat)
  | getGlitchOutEn (channel : Nat)
  | setClockSource (source : Nat)
  | getClockSource
  | setTargetClockOut (mode : Nat)
  | getTargetClockOut
  | setTrigoutFpa (enabled : Nat)
  | getTrigoutFpa
  | setTriggerModule (module : Nat)
  | getTriggerModule
  | i2cReadByte (reg sla : Nat)
  | i2cWriteByte (reg : Nat) (data : Byte) (sla : Nat)
  | pllIsPresent
  | pllSetupPll (n m bypass highspeed num : Nat)
  | pllSetupDivider (setting clockSourceId divNum : Nat)
  | pllSetupOutput (outNum invert enabled divSource slewRate : Nat)
  | pllSetupClockSource (differential useIN0 useIN1 : Nat)
  | init (variant : Nat)
deriving DecidableEq, Repr

end Sys2Proof
end

