-- ==== Sys2Proof/Config.lean ====
section
/-! DEFINITION. What an implementation fixes and what no law fixes: the OPEN parameters of spec/00_scope.md R7 and
46_pll_programming.md R195 (92_eei_decisions.md P1 to P17), their admissible values, and the free values of the model. -/

namespace Sys2Proof

/-- R23: the capability profile of one variant. -/
structure Profile where
  hasFrontPanelPins : Bool
  hasGlitchOutput : Bool
  hasPLL : Bool
deriving DecidableEq, Repr

/-- R155, P13: when SET_TRIGGER_MODULE emits its event. -/
inductive EdgeFirePolicy where
  | always | onChange
deriving DecidableEq, Repr

/-- R187, P14: what PLL_IS_PRESENT makes of a slave that does not acknowledge. -/
inductive PresentOnNack where
  | absent | propagate
deriving DecidableEq, Repr

/-- One value for each of six like things (dividers 0..5, R195). -/
structure Six (α : Type) where
  at0 : α
  at1 : α
  at2 : α
  at3 : α
  at4 : α
  at5 : α
deriving DecidableEq, Repr

/-- Entry n of six; only n up to 5 is ever asked for. -/
def Six.get {α : Type} (x : Six α) : Nat → α
  | 0 => x.at0
  | 1 => x.at1
  | 2 => x.at2
  | 3 => x.at3
  | 4 => x.at4
  | _ => x.at5

/-- The six entries in order. -/
def Six.toList {α : Type} (x : Six α) : List α := [x.at0, x.at1, x.at2, x.at3, x.at4, x.at5]

/-- A boolean function of (differential, useIN0, useIN1) as its truth table (R195 `CS1_COND`, `CS1_VAL`, P17). -/
structure Table3 where
  fff : Bool
  fft : Bool
  ftf : Bool
  ftt : Bool
  tff : Bool
  tft : Bool
  ttf : Bool
  ttt : Bool
deriving DecidableEq, Repr

/-- The table's value at three booleans. -/
def Table3.look (t : Table3) : Bool → Bool → Bool → Bool
  | false, false, false => t.fff
  | false, false, true => t.fft
  | false, true, false => t.ftf
  | false, true, true => t.ftt
  | true, false, false => t.tff
  | true, false, true => t.tft
  | true, true, false => t.ttf
  | true, true, true => t.ttt

/-- R195: the register map of the PLL chip, every number and bit position OPEN (P16, P17). -/
structure PllMap where
  mReg : Reg7
  nReg : Reg7
  hiReg : Reg7
  mW : Nat
  nW : Nat
  mHiLo : Nat
  nHiLo : Nat
  bypassBit : Fin 8
  hsBit : Fin 8
  keepMask : Byte
  divReg : Six Reg7
  srcReg01 : Reg7
  srcReg23 : Reg7
  srcReg45 : Reg7
  srcShift : Six (Fin 6)
  outBase : Nat
  outEnBit : Fin 8
  outInvBit : Fin 8
  outSlewLo : Fin 7
  outDivLo : Fin 6
  cs1Reg : Reg7
  cs1Bit : Fin 8
  cs1Cond : Table3
  cs1Val : Table3
  cs2Reg : Reg7
  csDiffBit : Fin 8
  csSeBit : Fin 8
deriving DecidableEq, Repr

/-- R195 `SRC_REG(d)`: dividers 0,1 in one register, 2,3 in a second, 4,5 in a third. -/
def PllMap.srcReg (m : PllMap) : Nat → Reg7
  | 0 => m.srcReg01
  | 1 => m.srcReg01
  | 2 => m.srcReg23
  | 3 => m.srcReg23
  | _ => m.srcReg45

/-- Every parameter of R7 that no source fixes. -/
structure Params where
  /-- P1 `IOROUTE_LEN`. -/
  ioRouteLen : Nat
  /-- R232, D13 `T_SETTLE` in milliseconds; the model has no time, so nothing depends on it. -/
  settleMs : Nat
  /-- P2 `CAPS`. -/
  capsRevisionA : Profile
  capsLite : Profile
  capsRev1200 : Profile
  /-- P3 `QUIRK_VARIANTS`: "a set of exactly one variant". -/
  quirkVariant : HardwareVariant
  /-- P4 `PIN_BIT`, in the order of `Pin`. -/
  pinBits : Six (Fin 6)
  /-- P5 `COLLECT_CODE`. -/
  collectOr : BitVec 2
  collectAnd : BitVec 2
  collectNand : BitVec 2
  /-- P6 `ROUTE_CODE`. -/
  routeHighZ : Byte
  routeSerialTX : Byte
  routeSerialRX : Byte
  routeUsiOut : Byte
  routeUsiIn : Byte
  routeUsiInOut : Byte
  routeSerialTXRX : Byte
  routeGpioEnabled : Byte
  /-- P7 `GPIO_EN_BIT`, `GPIO_OUT_BIT`. -/
  gpioEnBit : Fin 8
  gpioOutBit : Fin 8
  /-- P8 `LEGAL_ROUTE(i)`: the members, each once. -/
  legalRoute1 : List RouteMode
  legalRoute2 : List RouteMode
  legalRoute3 : List RouteMode
  legalRoute4 : List RouteMode
  /-- P9 `CLKSRC_CODE`. -/
  clkFrontPanelA : BitVec 3
  clkFrontPanelB : BitVec 3
  clkPllInput : BitVec 3
  clkTargetIOIn : BitVec 3
  clkTargetIOOut : BitVec 3
  /-- P10 `CLKOUT_CODE`. -/
  clkOutDisabled : BitVec 2
  clkOutClkgen : BitVec 2
  clkOutGlitch : BitVec 2
  /-- P11 `TRIGMOD_CODE`. -/
  trigBasic : BitVec 3
  trigSadMatch : BitVec 3
  trigAdvancedPattern : BitVec 3
  trigDecodeIO : BitVec 3
  /-- P12 `LEGAL_TRIGMOD(variant)`: the members, each once. -/
  legalTrigRevisionA : List TriggerModule
  legalTrigLite : List TriggerModule
  legalTrigRev1200 : List TriggerModule
  /-- P13. -/
  edgeFirePolicy : EdgeFirePolicy
  /-- P14. -/
  presentOnNack : PresentOnNack
  /-- P15. -/
  glitchGated : Bool
  /-- P16, P17. -/
  pll : PllMap
deriving DecidableEq, Repr

/-- R23 `CAPS(variant)`. -/
def Params.capsOf (p : Params) : HardwareVariant → Profile
  | .revisionA => p.capsRevisionA
  | .lite => p.capsLite
  | .rev1200 => p.capsRev1200

/-- R33 `PIN_BIT(pin)`. -/
def Params.pinBit (p : Params) : Pin → Nat
  | .frontPanelA => p.pinBits.at0
  | .frontPanelB => p.pinBits.at1
  | .targetIO1 => p.pinBits.at2
  | .targetIO2 => p.pinBits.at3
  | .targetIO3 => p.pinBits.at4
  | .targetIO4 => p.pinBits.at5

/-- R33 `COLLECT_CODE(mode)`. -/
def Params.collectCode (p : Params) : CollectionMode → BitVec 2
  | .or => p.collectOr
  | .and => p.collectAnd
  | .nand => p.collectNand

/-- R36 `ROUTE_CODE(mode)`. -/
def Params.routeCode (p : Params) : RouteMode → Byte
  | .highZ => p.routeHighZ
  | .serialTX => p.routeSerialTX
  | .serialRX => p.routeSerialRX
  | .usiOut => p.routeUsiOut
  | .usiIn => p.routeUsiIn
  | .usiInOut => p.routeUsiInOut
  | .serialTXRX => p.routeSerialTXRX
  | .gpioEnabled => p.routeGpioEnabled

/-- R36 `LEGAL_ROUTE(i)`. -/
def Params.legalRoute (p : Params) : TargetPin → List RouteMode
  | .io1 => p.legalRoute1
  | .io2 => p.legalRoute2
  | .io3 => p.legalRoute3
  | .io4 => p.legalRoute4

/-- R34 `CLKSRC_CODE(src)`. -/
def Params.clkSrcCode (p : Params) : ClockSource → BitVec 3
  | .frontPanelA => p.clkFrontPanelA
  | .frontPanelB => p.clkFrontPanelB
  | .pllInput => p.clkPllInput
  | .targetIOIn => p.clkTargetIOIn
  | .targetIOOut => p.clkTargetIOOut

/-- R34 `CLKOUT_CODE(m)`. -/
def Params.clkOutCode (p : Params) : TargetClockOut → BitVec 2
  | .disabled => p.clkOutDisabled
  | .clkgen => p.clkOutClkgen
  | .glitchModule => p.clkOutGlitch

/-- R35 `TRIGMOD_CODE(m)`. -/
def Params.trigModCode (p : Params) : TriggerModule → BitVec 3
  | .basic => p.trigBasic
  | .sadMatch => p.trigSadMatch
  | .advancedPattern => p.trigAdvancedPattern
  | .decodeIO => p.trigDecodeIO

/-- R24 `LEGAL_TRIGMOD(variant)`. -/
def Params.legalTrigMod (p : Params) : HardwareVariant → List TriggerModule
  | .revisionA => p.legalTrigRevisionA
  | .lite => p.legalTrigLite
  | .rev1200 => p.legalTrigRev1200

/-- The set bits of a field of w bits at lo, as one byte. -/
def Config.fieldMask (lo w : Nat) : Byte := BitVec.ofNat 8 (2 ^ w - 1) <<< lo

/-- How many bits of a byte are set. -/
def Config.countOnes (b : Byte) : Nat := ((List.range 8).filter (fun i => b.getLsbD i)).length

/-- R195's constraints on the PLL chip's map. The fields of `PLL_HI_REG` with `KEEP_MASK` cover the register and number
eight bits in all (D27), so they are pairwise disjoint. -/
def PllMap.admissible (m : PllMap) : Bool :=
  decide ([m.mReg, m.nReg, m.hiReg].Nodup)
  && decide (8 ≤ m.mW ∧ 8 ≤ m.nW)
  && decide (m.mHiLo + (m.mW - 8) ≤ 8 ∧ m.nHiLo + (m.nW - 8) ≤ 8)
  && decide (Config.countOnes m.keepMask = 2)
  && decide ((m.mW - 8) + (m.nW - 8) + 1 + 1 + 2 = 8)
  && decide (Config.fieldMask m.mHiLo (m.mW - 8) ||| Config.fieldMask m.nHiLo (m.nW - 8)
      ||| Config.fieldMask m.bypassBit 1 ||| Config.fieldMask m.hsBit 1 ||| m.keepMask = 0xFF#8)
  && decide (m.divReg.toList.Nodup)
  && decide ([m.srcReg01, m.srcReg23, m.srcReg45].Nodup)
  && decide (m.srcShift.at0.val + 3 ≤ m.srcShift.at1.val ∨ m.srcShift.at1.val + 3 ≤ m.srcShift.at0.val)
  && decide (m.srcShift.at2.val + 3 ≤ m.srcShift.at3.val ∨ m.srcShift.at3.val + 3 ≤ m.srcShift.at2.val)
  && decide (m.srcShift.at4.val + 3 ≤ m.srcShift.at5.val ∨ m.srcShift.at5.val + 3 ≤ m.srcShift.at4.val)
  && decide (m.outBase + 5 ≤ 127)
  && decide (Config.countOnes (Config.fieldMask m.outEnBit 1 ||| Config.fieldMask m.outInvBit 1
      ||| Config.fieldMask m.outSlewLo 2 ||| Config.fieldMask m.outDivLo 3) = 7)
  && decide (m.csDiffBit ≠ m.csSeBit)
  && decide (m.cs1Reg ≠ m.cs2Reg)

/-- The constraints of R7's table. -/
def Params.admissible (p : Params) : Bool :=
  decide (8 ≤ p.ioRouteLen)
  && decide (0 < p.settleMs)
  && !p.capsLite.hasFrontPanelPins
  && decide (p.pinBits.toList.Nodup)
  && decide ([p.collectOr, p.collectAnd, p.collectNand].Nodup)
  && decide ([p.routeHighZ, p.routeSerialTX, p.routeSerialRX, p.routeUsiOut, p.routeUsiIn, p.routeUsiInOut,
      p.routeSerialTXRX, p.routeGpioEnabled].Nodup)
  && decide (p.gpioEnBit ≠ p.gpioOutBit)
  && p.routeGpioEnabled.getLsbD p.gpioEnBit
  && [p.routeHighZ, p.routeSerialTX, p.routeSerialRX, p.routeUsiOut, p.routeUsiIn, p.routeUsiInOut,
      p.routeSerialTXRX].all (fun c => !c.getLsbD p.gpioEnBit)
  && [p.routeHighZ, p.routeSerialTX, p.routeSerialRX, p.routeUsiOut, p.routeUsiIn, p.routeUsiInOut,
      p.routeSerialTXRX, p.routeGpioEnabled].all (fun c => !c.getLsbD p.gpioOutBit)
  && decide (p.legalRoute1.Nodup ∧ p.legalRoute2.Nodup ∧ p.legalRoute3.Nodup ∧ p.legalRoute4.Nodup)
  && decide (p.legalRoute4.length < p.legalRoute1.length ∧ p.legalRoute4.length < p.legalRoute2.length
      ∧ p.legalRoute4.length < p.legalRoute3.length)
  && decide ([p.clkFrontPanelA, p.clkFrontPanelB, p.clkPllInput, p.clkTargetIOIn, p.clkTargetIOOut].Nodup)
  && decide ([p.clkOutDisabled, p.clkOutClkgen, p.clkOutGlitch].Nodup)
  && decide ([p.trigBasic, p.trigSadMatch, p.trigAdvancedPattern, p.trigDecodeIO].Nodup)
  && decide (p.legalTrigRevisionA.Nodup ∧ p.legalTrigLite.Nodup ∧ p.legalTrigRev1200.Nodup)
  && p.pll.admissible

/-- D36's REF configuration: "used only to make test vectors concrete". The model does not use it; it shows that admissible
parameters exist, and the tests run on it. -/
def Params.ref : Params where
  ioRouteLen := 8
  settleMs := 50
  capsRevisionA := ⟨true, true, false⟩
  capsLite := ⟨false, true, false⟩
  capsRev1200 := ⟨true, true, true⟩
  quirkVariant := .revisionA
  pinBits := ⟨0, 1, 2, 3, 4, 5⟩
  collectOr := 0
  collectAnd := 1
  collectNand := 2
  routeHighZ := 0x00
  routeSerialTX := 0x01
  routeSerialRX := 0x02
  routeUsiOut := 0x04
  routeUsiIn := 0x08
  routeUsiInOut := 0x18
  routeSerialTXRX := 0x03
  routeGpioEnabled := 0x40
  gpioEnBit := 6
  gpioOutBit := 7
  legalRoute1 := [.highZ, .serialTX, .serialRX, .usiOut, .usiIn, .usiInOut, .serialTXRX, .gpioEnabled]
  legalRoute2 := [.highZ, .serialTX, .serialRX, .usiOut, .usiIn, .usiInOut, .serialTXRX, .gpioEnabled]
  legalRoute3 := [.highZ, .serialTX, .serialRX, .usiOut, .usiIn, .usiInOut, .serialTXRX, .gpioEnabled]
  legalRoute4 := [.highZ, .serialTX, .serialRX, .serialTXRX, .gpioEnabled]
  clkFrontPanelA := 0
  clkFrontPanelB := 1
  clkPllInput := 2
  clkTargetIOIn := 3
  clkTargetIOOut := 4
  clkOutDisabled := 0
  clkOutClkgen := 1
  clkOutGlitch := 2
  trigBasic := 0
  trigSadMatch := 1
  trigAdvancedPattern := 2
  trigDecodeIO := 3
  legalTrigRevisionA := [.basic, .sadMatch, .advancedPattern, .decodeIO]
  legalTrigLite := [.basic, .sadMatch, .advancedPattern, .decodeIO]
  legalTrigRev1200 := [.basic, .sadMatch, .advancedPattern, .decodeIO]
  edgeFirePolicy := .always
  presentOnNack := .absent
  glitchGated := false
  pll :=
    { mReg := 0x01, nReg := 0x02, hiReg := 0x03, mW := 9, nW := 11, mHiLo := 0, nHiLo := 1
      bypassBit := 7, hsBit := 6, keepMask := 0x30
      divReg := ⟨0x0D, 0x0E, 0x0F, 0x10, 0x11, 0x12⟩
      srcReg01 := 0x0A, srcReg23 := 0x0B, srcReg45 := 0x0C
      srcShift := ⟨0, 3, 0, 3, 0, 3⟩
      outBase := 0x13, outEnBit := 3, outInvBit := 4, outSlewLo := 5, outDivLo := 0
      cs1Reg := 0x09, cs1Bit := 0
      cs1Cond := ⟨true, true, true, true, false, false, false, false⟩
      cs1Val := ⟨false, true, false, true, false, true, false, true⟩
      cs2Reg := 0x08, csDiffBit := 7, csSeBit := 6 }

/-- Admissible parameters. "the model's claims must hold for every admissible value" (R7): a statement over every state is a
statement over every board, since State holds one. (The field values written here only show that the type has a member.) -/
structure Board where
  params : Params := Params.ref
  ok : params.admissible = true := by decide
deriving DecidableEq, Repr, Inhabited

/-- What the slave oracle answers to one transaction (R49): the acknowledge, and the byte of a read. -/
structure Reply where
  ack : Bool
  data : Byte
deriving DecidableEq, Repr, Inhabited

/-- The board the machine was built with. Free: no body. -/
opaque Config.board : Board

/-- Draw n of the transport: does the command fail (R102, I4)? Free: no body. -/
opaque Config.linkFails : Nat → Bool

/-- Draw n of the caller: does it stop inside a handshake (R176, D39)? Free: no body. -/
opaque Config.callerStops : Nat → Bool

/-- Draw n of the engine: has its transaction completed before the next request (R173)? Free: no body. -/
opaque Config.engineDone : Nat → Bool

/-- Draw n of a byte (R10 `draw()`; I3, I11 to I13). Free: no body. -/
opaque Config.noise : Nat → Byte

/-- Draw n of the slave oracle (R49, I14). Free: no body. -/
opaque Config.slaveReply : Nat → Reply

end Sys2Proof
end

