-- ==== Sys2Proof/WellFormed.lean ====
section
/-! DEFINITION. Well-formed instructions: every argument fits the field that carries it in a request (log entry 3). What the
values mean is not checked here but by the operations, which the spec gives an error or a refusal for each (R90, R213). -/

namespace Sys2Proof

/-- A transport address fits its byte (30_encoding.md R80: 8 bits). -/
def fitsByte (n : Nat) : Bool := decide (n < 256)

/-- An operation argument fits its 16-bit field (log entry 3). -/
def fitsWord (n : Nat) : Bool := decide (n < 65536)

/-- Every argument of the instruction fits its field. -/
def Instr.wellFormed : Instr → Bool
  | .read addr len => fitsByte addr && fitsWord len
  | .write addr _ => fitsByte addr
  | .fieldSet addr byteOff bitOff width inverted value =>
      fitsWord addr && fitsWord byteOff && fitsWord bitOff && fitsWord width && fitsWord inverted && fitsWord value
  | .fieldGet addr byteOff bitOff width inverted =>
      fitsWord addr && fitsWord byteOff && fitsWord bitOff && fitsWord width && fitsWord inverted
  | .setPin pin enabled => fitsWord pin && fitsWord enabled
  | .getPin pin => fitsWord pin
  | .setCollectionMode mode => fitsWord mode
  | .getCollectionMode => true
  | .setIoRoute pinIndex mode => fitsWord pinIndex && fitsWord mode
  | .getIoRoute pinIndex => fitsWord pinIndex
  | .setGpioState gpioPin state => fitsWord gpioPin && fitsWord state
  | .getGpioState gpioPin => fitsWord gpioPin
  | .setPowerState enabled => fitsWord enabled
  | .getPowerState => true
  | .setGlitchOutEn channel enabled => fitsWord channel && fitsWord enabled
  | .getGlitchOutEn channel => fitsWord channel
  | .setClockSource source => fitsWord source
  | .getClockSource => true
  | .setTargetClockOut mode => fitsWord mode
  | .getTargetClockOut => true
  | .setTrigoutFpa enabled => fitsWord enabled
  | .getTrigoutFpa => true
  | .setTriggerModule module => fitsWord module
  | .getTriggerModule => true
  | .i2cReadByte reg sla => fitsWord reg && fitsWord sla
  | .i2cWriteByte reg _ sla => fitsWord reg && fitsWord sla
  | .pllIsPresent => true
  | .pllSetupPll n m bypass highspeed num => fitsWord n && fitsWord m && fitsWord bypass && fitsWord highspeed && fitsWord num
  | .pllSetupDivider setting clockSourceId divNum => fitsWord setting && fitsWord clockSourceId && fitsWord divNum
  | .pllSetupOutput outNum invert enabled divSource slewRate =>
      fitsWord outNum && fitsWord invert && fitsWord enabled && fitsWord divSource && fitsWord slewRate
  | .pllSetupClockSource differential useIN0 useIN1 => fitsWord differential && fitsWord useIN0 && fitsWord useIN1
  | .init variant => fitsWord variant

end Sys2Proof
end

