-- ==== Sys2Proof/Decode.lean ====
section
/-! DEFINITION. The decoder and the encoder of requests (spec/30_encoding.md R80, R81, R88, R89). A request is a list of
bytes, the first of which is the opcode of a transport command or the selector of an operation, compared in full. The spec
fixes no layout for what follows; this one is a DESIGN CHOICE (log entry 3): an operation's arguments in the order of R88's
table, each an unsigned 16-bit number with its low byte first (the data byte of I2C_WRITE_BYTE one byte); READ carries its
address (one byte) and response length (16 bits), WRITE its address and then its payload. `sla` and `num` may be left off
the end and then take their defaults (R88; log entry 4). -/

namespace Sys2Proof

/-- Why a request is rejected. -/
inductive DecodeError where
  /-- There is no first byte. -/
  | empty
  /-- The first byte is neither an opcode nor a selector (R81, R88: reserved and refused). -/
  | reserved (op : Byte)
  /-- The bytes after the first are not the arguments of the named instruction. -/
  | arguments (mnemonic : String)
deriving DecidableEq, Repr

/-- The 16-bit number with low byte lo and high byte hi. -/
def wordOf (lo hi : Byte) : Nat := lo.toNat + 256 * hi.toNat

/-- The bytes as 16-bit numbers, low byte first; none for an odd number of bytes. -/
def wordsOf : List Byte → Option (List Nat)
  | [] => some []
  | [_] => none
  | lo :: hi :: rest => (wordsOf rest).map (wordOf lo hi :: ·)

/-- The default slave address of an I2C byte operation (R88: "default 0x69"). -/
def defaultSla : Nat := 0x69

/-- The default PLL index of PLL_SETUP_PLL (R88: "default 1"). -/
def defaultNum : Nat := 1

/-- An instruction, or the rejection of the arguments of the instruction m. -/
def orArguments (m : String) : Option Instr → Except DecodeError Instr
  | some i => .ok i
  | none => .error (.arguments m)

/-- READ: address, response length (R80). -/
def decodeRead : List Byte → Option Instr
  | [a, l0, l1] => some (.read a.toNat (wordOf l0 l1))
  | _ => none

/-- WRITE: address, payload (R80). -/
def decodeWrite : List Byte → Option Instr
  | a :: payload => some (.write a.toNat payload)
  | [] => none

/-- I2C_WRITE_BYTE: reg, data, sla (default 0x69) (R88). -/
def decodeI2cWrite : List Byte → Option Instr
  | [r0, r1, d] => some (.i2cWriteByte (wordOf r0 r1) d defaultSla)
  | [r0, r1, d, s0, s1] => some (.i2cWriteByte (wordOf r0 r1) d (wordOf s0 s1))
  | _ => none

/-- An operation without arguments. -/
def decode0 (i : Instr) : Option (List Nat) → Option Instr
  | some [] => some i
  | _ => none

/-- An operation of one argument. -/
def decode1 (f : Nat → Instr) : Option (List Nat) → Option Instr
  | some [a] => some (f a)
  | _ => none

/-- An operation of two arguments. -/
def decode2 (f : Nat → Nat → Instr) : Option (List Nat) → Option Instr
  | some [a, b] => some (f a b)
  | _ => none

/-- An operation of three arguments. -/
def decode3 (f : Nat → Nat → Nat → Instr) : Option (List Nat) → Option Instr
  | some [a, b, c] => some (f a b c)
  | _ => none

/-- An operation of five arguments. -/
def decode5 (f : Nat → Nat → Nat → Nat → Nat → Instr) : Option (List Nat) → Option Instr
  | some [a, b, c, d, e] => some (f a b c d e)
  | _ => none

/-- An operation of six arguments. -/
def decode6 (f : Nat → Nat → Nat → Nat → Nat → Nat → Instr) : Option (List Nat) → Option Instr
  | some [a, b, c, d, e, g] => some (f a b c d e g)
  | _ => none

/-- I2C_READ_BYTE: reg, sla (default 0x69) (R88). -/
def decodeI2cRead : Option (List Nat) → Option Instr
  | some [reg] => some (.i2cReadByte reg defaultSla)
  | some [reg, sla] => some (.i2cReadByte reg sla)
  | _ => none

/-- PLL_SETUP_PLL: N, M, bypass, highspeed, num (default 1) (R88). -/
def decodeSetupPll : Option (List Nat) → Option Instr
  | some [n, m, bypass, highspeed] => some (.pllSetupPll n m bypass highspeed defaultNum)
  | some [n, m, bypass, highspeed, num] => some (.pllSetupPll n m bypass highspeed num)
  | _ => none

/-- The instruction a request's first byte op and remaining bytes rest stand for (R81, R88). -/
def decodeOp (op : Byte) (rest : List Byte) : Except DecodeError Instr :=
  match op.toNat with
  | 0x80 => orArguments "READ" (decodeRead rest)
  | 0xC0 => orArguments "WRITE" (decodeWrite rest)
  | 0x01 => orArguments "FIELD_SET" (decode6 .fieldSet (wordsOf rest))
  | 0x02 => orArguments "FIELD_GET" (decode5 .fieldGet (wordsOf rest))
  | 0x10 => orArguments "SET_PIN" (decode2 .setPin (wordsOf rest))
  | 0x11 => orArguments "GET_PIN" (decode1 .getPin (wordsOf rest))
  | 0x12 => orArguments "SET_COLLECTION_MODE" (decode1 .setCollectionMode (wordsOf rest))
  | 0x13 => orArguments "GET_COLLECTION_MODE" (decode0 .getCollectionMode (wordsOf rest))
  | 0x20 => orArguments "SET_IOROUTE" (decode2 .setIoRoute (wordsOf rest))
  | 0x21 => orArguments "GET_IOROUTE" (decode1 .getIoRoute (wordsOf rest))
  | 0x22 => orArguments "SET_GPIO_STATE" (decode2 .setGpioState (wordsOf rest))
  | 0x23 => orArguments "GET_GPIO_STATE" (decode1 .getGpioState (wordsOf rest))
  | 0x24 => orArguments "SET_POWER_STATE" (decode1 .setPowerState (wordsOf rest))
  | 0x25 => orArguments "GET_POWER_STATE" (decode0 .getPowerState (wordsOf rest))
  | 0x26 => orArguments "SET_GLITCH_OUT_EN" (decode2 .setGlitchOutEn (wordsOf rest))
  | 0x27 => orArguments "GET_GLITCH_OUT_EN" (decode1 .getGlitchOutEn (wordsOf rest))
  | 0x30 => orArguments "SET_CLOCK_SOURCE" (decode1 .setClockSource (wordsOf rest))
  | 0x31 => orArguments "GET_CLOCK_SOURCE" (decode0 .getClockSource (wordsOf rest))
  | 0x32 => orArguments "SET_TARGET_CLOCK_OUT" (decode1 .setTargetClockOut (wordsOf rest))
  | 0x33 => orArguments "GET_TARGET_CLOCK_OUT" (decode0 .getTargetClockOut (wordsOf rest))
  | 0x34 => orArguments "SET_TRIGOUT_FPA" (decode1 .setTrigoutFpa (wordsOf rest))
  | 0x35 => orArguments "GET_TRIGOUT_FPA" (decode0 .getTrigoutFpa (wordsOf rest))
  | 0x40 => orArguments "SET_TRIGGER_MODULE" (decode1 .setTriggerModule (wordsOf rest))
  | 0x41 => orArguments "GET_TRIGGER_MODULE" (decode0 .getTriggerModule (wordsOf rest))
  | 0x50 => orArguments "I2C_READ_BYTE" (decodeI2cRead (wordsOf rest))
  | 0x51 => orArguments "I2C_WRITE_BYTE" (decodeI2cWrite rest)
  | 0x52 => orArguments "PLL_IS_PRESENT" (decode0 .pllIsPresent (wordsOf rest))
  | 0x60 => orArguments "PLL_SETUP_PLL" (decodeSetupPll (wordsOf rest))
  | 0x61 => orArguments "PLL_SETUP_DIVIDER" (decode3 .pllSetupDivider (wordsOf rest))
  | 0x62 => orArguments "PLL_SETUP_OUTPUT" (decode5 .pllSetupOutput (wordsOf rest))
  | 0x63 => orArguments "PLL_SETUP_CLOCK_SOURCE" (decode3 .pllSetupClockSource (wordsOf rest))
  | 0x70 => orArguments "INIT" (decode1 .init (wordsOf rest))
  | _ => .error (.reserved op)

/-- The instruction a request stands for, or why there is none. -/
def decode : List Byte → Except DecodeError Instr
  | [] => .error .empty
  | op :: rest => decodeOp op rest

/-- The two bytes of a 16-bit argument, low byte first. -/
def encodeWord (n : Nat) : List Byte := [BitVec.ofNat 8 (n % 256), BitVec.ofNat 8 (n / 256)]

/-- The bytes of the arguments, in order. -/
def encodeWords : List Nat → List Byte
  | [] => []
  | n :: rest => encodeWord n ++ encodeWords rest

/-- The request of an instruction, every argument written out (R80, R88). -/
def encode : Instr → List Byte
  | .read addr len => 0x80 :: BitVec.ofNat 8 addr :: encodeWord len
  | .write addr payload => 0xC0 :: BitVec.ofNat 8 addr :: payload
  | .fieldSet addr byteOff bitOff width inverted value => 0x01 :: encodeWords [addr, byteOff, bitOff, width, inverted, value]
  | .fieldGet addr byteOff bitOff width inverted => 0x02 :: encodeWords [addr, byteOff, bitOff, width, inverted]
  | .setPin pin enabled => 0x10 :: encodeWords [pin, enabled]
  | .getPin pin => 0x11 :: encodeWords [pin]
  | .setCollectionMode mode => 0x12 :: encodeWords [mode]
  | .getCollectionMode => [0x13]
  | .setIoRoute pinIndex mode => 0x20 :: encodeWords [pinIndex, mode]
  | .getIoRoute pinIndex => 0x21 :: encodeWords [pinIndex]
  | .setGpioState gpioPin state => 0x22 :: encodeWords [gpioPin, state]
  | .getGpioState gpioPin => 0x23 :: encodeWords [gpioPin]
  | .setPowerState enabled => 0x24 :: encodeWords [enabled]
  | .getPowerState => [0x25]
  | .setGlitchOutEn channel enabled => 0x26 :: encodeWords [channel, enabled]
  | .getGlitchOutEn channel => 0x27 :: encodeWords [channel]
  | .setClockSource source => 0x30 :: encodeWords [source]
  | .getClockSource => [0x31]
  | .setTargetClockOut mode => 0x32 :: encodeWords [mode]
  | .getTargetClockOut => [0x33]
  | .setTrigoutFpa enabled => 0x34 :: encodeWords [enabled]
  | .getTrigoutFpa => [0x35]
  | .setTriggerModule module => 0x40 :: encodeWords [module]
  | .getTriggerModule => [0x41]
  | .i2cReadByte reg sla => 0x50 :: encodeWords [reg, sla]
  | .i2cWriteByte reg data sla => 0x51 :: (encodeWord reg ++ data :: encodeWord sla)
  | .pllIsPresent => [0x52]
  | .pllSetupPll n m bypass highspeed num => 0x60 :: encodeWords [n, m, bypass, highspeed, num]
  | .pllSetupDivider setting clockSourceId divNum => 0x61 :: encodeWords [setting, clockSourceId, divNum]
  | .pllSetupOutput outNum invert enabled divSource slewRate =>
      0x62 :: encodeWords [outNum, invert, enabled, divSource, slewRate]
  | .pllSetupClockSource differential useIN0 useIN1 => 0x63 :: encodeWords [differential, useIN0, useIN1]
  | .init variant => 0x70 :: encodeWords [variant]

/-- How many bytes follow the first byte op in a request with all its arguments (WRITE: with an empty payload). -/
def argumentBytes (op : Nat) : Nat :=
  match op with
  | 0x80 => 3
  | 0xC0 => 1
  | 0x01 => 12
  | 0x02 => 10
  | 0x10 => 4
  | 0x11 => 2
  | 0x12 => 2
  | 0x20 => 4
  | 0x21 => 2
  | 0x22 => 4
  | 0x23 => 2
  | 0x24 => 2
  | 0x26 => 4
  | 0x27 => 2
  | 0x30 => 2
  | 0x32 => 2
  | 0x34 => 2
  | 0x40 => 2
  | 0x50 => 4
  | 0x51 => 5
  | 0x60 => 10
  | 0x61 => 6
  | 0x62 => 10
  | 0x63 => 6
  | 0x70 => 2
  | _ => 0

/-- The low nbits of w as whole bytes, bits 7..0 first. -/
def bytesOfWord (nbits w : Nat) : List Byte :=
  (List.range (nbits / 8)).map (fun k => BitVec.ofNat 8 (w / 256 ^ k))

/-- The request whose bits, numbered as spec/opcode_table.json numbers them (bit 0 the least significant bit of the first
byte), are w below nbits and 0 above, up to the end of the instruction. -/
def requestOfWord (nbits w : Nat) : List Byte :=
  let bytes := bytesOfWord nbits w
  match bytes with
  | [] => []
  | op :: rest => bytes ++ List.replicate (argumentBytes op.toNat - rest.length) 0

/-- The instruction the decoder reads from an instruction with the bits w. -/
def decodeTableWord (nbits w : Nat) : Option Instr := (decode (requestOfWord nbits w)).toOption

end Sys2Proof
end

