-- ==== Sys2Proof/Machine/State.lean ====
section
/-! DEFINITION. The state of the block (spec/10_state.md), its reset (70_reset_and_hazards.md R230), and the reasons a step
can stop. Plain data throughout. -/

namespace Sys2Proof.Machine

/-- R210: the error kinds with the information each records. -/
inductive OpError where
  /-- code 1: the variant code. -/
  | unsupportedVariant (code : Nat)
  /-- code 2: the offending arguments. -/
  | invalidParameter (args : List Nat)
  /-- code 3: the selector. -/
  | invalidChannel (selector : Nat)
  /-- code 4: the pin. -/
  | pinModeMismatch (gpioPin : Nat)
  /-- code 5: slave address, register. -/
  | noAcknowledge (sla reg : Reg7)
  /-- code 6: the failing command's address. -/
  | transportFailure (addr : Nat)
deriving DecidableEq, Repr

/-- R91: the result of an operation that ended well; `unrecognised v` is R29's `Unrecognised(v)`. -/
inductive Result where
  | nothing
  | byte (b : Byte)
  | bytes (bs : List Byte)
  | bool (b : Bool)
  | field (v : Byte)
  | collectionMode (m : CollectionMode)
  | gpioState (s : GPIOState)
  | clockSource (s : ClockSource)
  | targetClockOut (m : TargetClockOut)
  | triggerModule (m : TriggerModule)
  | unrecognised (v : Nat)
deriving DecidableEq, Repr

/-- R91: what the caller receives when an operation ends. -/
inductive Report where
  /-- Nothing is reported: no operation has ended, or the last request was refused (R213), or it was abandoned (D39). -/
  | none
  | ok (r : Result)
  | error (e : OpError)
deriving DecidableEq, Repr

/-- The `reason` of `refuse(reason)` (R10; 93_implementation_defined.md I16 to I26). -/
inductive RefusalReason where
  /-- I16, I19, or bytes that are not the instruction's arguments: the request does not decode. -/
  | request (e : DecodeError)
  /-- I17: a command at an address or width not in R63's table. -/
  | commandAddress
  /-- I18: a WRITE to 47 of a reserved control word (R85). -/
  | controlWord
  /-- I20: a boolean argument outside 0, 1 (R90). -/
  | booleanArgument
  /-- I21: a request other than INIT before construction (R25). -/
  | unconstructed
  /-- I21: INIT on a constructed block (R233). -/
  | constructed
  /-- I22: an invalid field descriptor (R104, R105). -/
  | fieldDescriptor
  /-- I23: `reg` or `sla` above 127 (R185, R186). -/
  | i2cAddress
  /-- I24: N or M wider than its field (R196). -/
  | pllWidth
  /-- I25: clockSourceId above 7 (R198). -/
  | clockSourceId
  /-- I26: outNum above 5 or slewRate above 3 (R199). -/
  | outputNumber
deriving DecidableEq, Repr

/-- R30: an instruction to the owner of the external trigger-edge setting: `lock = true` forces "rising edge" and marks it
read-only, `lock = false` clears the mark. -/
structure EdgeLock where
  lock : Bool
deriving DecidableEq, Repr

/-- One entry of the command trace (R220, R75): a command with its bytes and response, or a settle wait. -/
inductive Traffic where
  /-- A READ with its response, none where it failed. -/
  | read (addr len : Nat) (response : Option (List Byte))
  /-- A WRITE with its payload, and whether it completed. -/
  | write (addr : Nat) (payload : List Byte) (completed : Bool)
  /-- A settle wait that ended (R180). -/
  | wait
deriving DecidableEq, Repr

/-- R83: the I2C control word `[ctl, sab, rab]`. -/
structure ControlWord where
  ctl : Byte
  sab : Byte
  rab : Byte
deriving DecidableEq, Repr

/-- R46: the direction of a transaction. -/
inductive Direction where
  | read | write
deriving DecidableEq, Repr

/-- R46: a transaction of the I2C engine. -/
structure Txn where
  rw : Direction
  sla : Reg7
  reg : Reg7
  data : Byte
deriving DecidableEq, Repr

/-- R46, R47: what the I2C engine is doing. -/
inductive Engine where
  | idle
  | busy (txn : Txn)
  | undefined
deriving DecidableEq, Repr

/-- R21: the sequencer's phase. While it runs it holds the operation with its arguments, and the index of the next
primitive (R27). -/
inductive Phase where
  | unconstructed
  | idle
  | running (op : Instr) (pc : Nat)
deriving DecidableEq, Repr

/-- A slave's register file: (address, byte) pairs in canonical form (`Memory.wf`); an unlisted byte reads 0 (log entry 19). -/
abbrev Memory := List Host.Cell

/-- R49: the I2C slave, outside the block. -/
inductive Bus where
  /-- "The normative model places no law on the answers": every answer is a draw. -/
  | lawless
  /-- R50 `WB_SLAVE(addr, file)`: the premise a claim may assume. -/
  | wellBehaved (addr : Reg7) (file : Memory)
deriving DecidableEq, Repr

/-- A source of draws (R10 `draw()`: "a free input"). The next draws are the script's, where a state fixes any; from its end on
they are the free value of Config numbered by how many were taken (log entry 6). -/
structure Draws (α : Type) where
  script : List α
  taken : Nat
deriving DecidableEq, Repr

/-- The machine stops with a fault. -/
inductive Fault where
  /-- R22: an operation used `buf` before its own READ wrote it. Raised by `perform` alone; "no rule of this spec has such a
  path". Safe: the model stops rather than read a stale value. -/
  | staleBuffer
deriving DecidableEq, Repr

/-- The model has no meaning for the instruction. (What the spec calls a refusal is a next state with the refusal mark set,
log entry 2.) -/
inductive Refusal where
  /-- An arm of `exec` without a meaning. No arm raises it. Safe: the model stops. -/
  | notModelled (mnemonic : String)
deriving DecidableEq, Repr

/-- The state of the block and of what it meets. -/
structure State where
  /-- R52: the parameters; no step changes them (log entry 5). -/
  cfg : Board
  /-- R21: set by INIT, none before. -/
  variant : Option HardwareVariant
  /-- R21, R23: the capability profile, set by INIT, none before. -/
  caps : Option Profile
  /-- R21, R25, R27. -/
  phase : Phase
  /-- R21, R22: the response of the running operation's most recent READ; none is "meaningless". -/
  buf : Option (List Byte)
  /-- R21, R222: the refusal mark. -/
  refused : Bool
  /-- The model's own: the reason of the most recent refusal. -/
  refusal : Option RefusalReason
  /-- R30: the event output, oldest first. -/
  events : List EdgeLock
  /-- R91, R210: what the last operation reported. -/
  report : Report
  /-- R220: the command trace, oldest first. -/
  trace : List Traffic
  /-- R45: Data (33), no width stated. -/
  dataReg : List Byte
  /-- R45: Length (34), no width stated. -/
  lengthReg : List Byte
  /-- R45: Baud (35), no width stated. -/
  baudReg : List Byte
  /-- R34: ExternalClock (38). -/
  extClk : Byte
  /-- R33: TriggerSource (39). -/
  trigSrc : Byte
  /-- R35: TriggerModule (40). -/
  trigMod : Byte
  /-- R36 to R41: IORoute (55), `IOROUTE_LEN` bytes. -/
  ioRoute : List Byte
  /-- R46: the last control word written to I2CStatus (47); none is "not defined" (R172). -/
  ctlLatch : Option ControlWord
  /-- R44, R46: the transmit byte of I2CData (48). -/
  txd : Byte
  /-- R44, R46: the receive byte of I2CData (48); none is "undefined". -/
  rxd : Option Byte
  /-- R43, R46: the NACK flag; none is "undefined". -/
  nack : Option Bool
  /-- R46, R47. -/
  eng : Engine
  /-- R49, R50. -/
  bus : Bus
  /-- R20, R26: the caller's waiting requests, the next first. -/
  requests : List (List Byte)
  /-- The model's own: draws of the transport (R102). -/
  link : Draws Bool
  /-- The model's own: draws of the caller's abandonment (R176). -/
  caller : Draws Bool
  /-- The model's own: draws of the engine's completion time (R173). -/
  engine : Draws Bool
  /-- The model's own: drawn bytes (R10). -/
  noise : Draws Byte
  /-- The model's own: draws of the slave oracle (R49). -/
  slave : Draws Reply
deriving DecidableEq, Repr

/-- The outcome of a step of this machine. -/
abbrev Out := Host.Outcome State Fault Refusal

/-- R230: power-on and start of a session, before INIT. Where R230 says "unspecified" the value is the model's (log entries 7
to 10); the parameters are the free board, no draw is scripted, no request waits. -/
def State.reset : State where
  cfg := Config.board
  variant := none
  caps := none
  phase := .unconstructed
  buf := none
  refused := false
  refusal := none
  events := []
  report := .none
  trace := []
  dataReg := []
  lengthReg := []
  baudReg := []
  extClk := 0
  trigSrc := 0
  trigMod := 0
  ioRoute := List.replicate Config.board.params.ioRouteLen 0
  ctlLatch := none
  txd := 0
  rxd := none
  nack := none
  eng := .idle
  bus := .lawless
  requests := []
  link := ⟨[], 0⟩
  caller := ⟨[], 0⟩
  engine := ⟨[], 0⟩
  noise := ⟨[], 0⟩
  slave := ⟨[], 0⟩

end Sys2Proof.Machine
end

