-- ==== Sys2Proof/Machine/Operands.lean ====
section
/-! DEFINITION. Operands: the codes of the argument enumerations (spec/30_encoding.md R89) and of an operation's outcome (R91;
60_exceptions.md R210), the masking primitives (00_scope.md R10), register widths (20_memory.md R63), field decoding
(10_state.md R29) and the I2C control word (30_encoding.md R84). -/

namespace Sys2Proof

/-- R89: RevisionA = 0, Lite = 1, Rev1200 = 2. -/
def HardwareVariant.ofCode : Nat → Option HardwareVariant
  | 0 => some .revisionA
  | 1 => some .lite
  | 2 => some .rev1200
  | _ => none

/-- R89: the pins in the order of R28. -/
def Pin.ofCode : Nat → Option Pin
  | 0 => some .frontPanelA
  | 1 => some .frontPanelB
  | 2 => some .targetIO1
  | 3 => some .targetIO2
  | 4 => some .targetIO3
  | 5 => some .targetIO4
  | _ => none

/-- R89, in the order of R28. -/
def CollectionMode.ofCode : Nat → Option CollectionMode
  | 0 => some .or
  | 1 => some .and
  | 2 => some .nand
  | _ => none

/-- R89, in the order of R28. -/
def RouteMode.ofCode : Nat → Option RouteMode
  | 0 => some .highZ
  | 1 => some .serialTX
  | 2 => some .serialRX
  | 3 => some .usiOut
  | 4 => some .usiIn
  | 5 => some .usiInOut
  | 6 => some .serialTXRX
  | 7 => some .gpioEnabled
  | _ => none

/-- R89: `pinIndex` is 1..4 for TargetIO1..4. -/
def TargetPin.ofIndex : Nat → Option TargetPin
  | 1 => some .io1
  | 2 => some .io2
  | 3 => some .io3
  | 4 => some .io4
  | _ => none

/-- R36: the IORoute byte of a target pin, `pinIndex - 1`. -/
def TargetPin.routeByte : TargetPin → Nat
  | .io1 => 0
  | .io2 => 1
  | .io3 => 2
  | .io4 => 3

/-- R40: the special index. -/
def SpecialPin.index : SpecialPin → Nat
  | .nRST => 0
  | .pdid => 1
  | .pdic => 2

/-- R89, in the order of R28: TargetIO1..4, nRST, PDID, PDIC. -/
def GPIOPin.ofCode : Nat → Option GPIOPin
  | 0 => some (.regular .io1)
  | 1 => some (.regular .io2)
  | 2 => some (.regular .io3)
  | 3 => some (.regular .io4)
  | 4 => some (.special .nRST)
  | 5 => some (.special .pdid)
  | 6 => some (.special .pdic)
  | _ => none

/-- R89, in the order of R28. -/
def GPIOState.ofCode : Nat → Option GPIOState
  | 0 => some .low
  | 1 => some .high
  | 2 => some .disabled
  | _ => none

/-- R89, in the order of R28. -/
def Channel.ofCode : Nat → Option Channel
  | 0 => some .a
  | 1 => some .b
  | _ => none

/-- R38, R128: IORoute byte 4 bit of a glitch channel. -/
def Channel.bit : Channel → Nat
  | .a => 0
  | .b => 1

/-- R89, in the order of R28. -/
def ClockSource.ofCode : Nat → Option ClockSource
  | 0 => some .frontPanelA
  | 1 => some .frontPanelB
  | 2 => some .pllInput
  | 3 => some .targetIOIn
  | 4 => some .targetIOOut
  | _ => none

/-- R89, in the order of R28. -/
def TargetClockOut.ofCode : Nat → Option TargetClockOut
  | 0 => some .disabled
  | 1 => some .clkgen
  | 2 => some .glitchModule
  | _ => none

/-- R89, in the order of R28. -/
def TriggerModule.ofCode : Nat → Option TriggerModule
  | 0 => some .basic
  | 1 => some .sadMatch
  | 2 => some .advancedPattern
  | 3 => some .decodeIO
  | _ => none

end Sys2Proof

namespace Sys2Proof.Machine

/-- R210, D5: the numeric code of an error kind. -/
def OpError.code : OpError → Nat
  | .unsupportedVariant _ => 1
  | .invalidParameter _ => 2
  | .invalidChannel _ => 3
  | .pinModeMismatch _ => 4
  | .noAcknowledge _ _ => 5
  | .transportFailure _ => 6

/-- R91: the code an operation's caller receives, 0 for OK; none where nothing is reported. -/
def Report.code : Report → Option Nat
  | .none => Option.none
  | .ok _ => some 0
  | .error e => some e.code

/-- R10 `mask(lo, w)`: w bits from bit lo. -/
def mask (lo w : Nat) : Byte := BitVec.ofNat 8 (2 ^ w - 1) <<< lo

/-- R10 `setbits(v, lo, w, f)`. -/
def setbits (v : Byte) (lo w : Nat) (f : Byte) : Byte := (v &&& ~~~ mask lo w) ||| ((f <<< lo) &&& mask lo w)

/-- R10 `getbits(v, lo, w)`. -/
def getbits (v : Byte) (lo w : Nat) : Byte := (v >>> lo) &&& mask 0 w

/-- A boolean as a field of one bit. -/
def bitOf (b : Bool) : Byte := if b then 1 else 0

/-- R110: clear bit k, then set it if on. -/
def putBit (v : Byte) (k : Nat) (on : Bool) : Byte :=
  let cleared := v &&& ~~~ ((1 : Byte) <<< k)
  if on then cleared ||| ((1 : Byte) <<< k) else cleared

/-- Byte k of a byte array (R9). -/
def byteAt (bs : List Byte) (k : Nat) : Byte := bs.getD k 0

/-- R63: the width of an admitted register, READ and WRITE alike; none for every other address. -/
def widthOf (p : Params) : Nat → Option Nat
  | 38 => some 1
  | 39 => some 1
  | 40 => some 1
  | 47 => some 3
  | 48 => some 1
  | 55 => some p.ioRouteLen
  | _ => none

/-- R63, R65: is a command of n bytes at address a admitted? -/
def admitted (p : Params) (a n : Nat) : Bool := widthOf p a == some n

/-- R104: the addresses whose fields FIELD_SET and FIELD_GET may name. -/
def isConfigRegister (a : Nat) : Bool := a == 38 || a == 39 || a == 40 || a == 55

/-- R104: is a field descriptor valid? -/
def descriptorValid (p : Params) (addr byteOff bitOff width : Nat) : Bool :=
  isConfigRegister addr && (match widthOf p addr with | some n => decide (byteOff < n) | none => false)
  && decide (width ≠ 0) && decide (bitOff + width ≤ 8)

/-- R104: the field of an `inverted` descriptor is stored complemented. -/
def polarity (inverted : Bool) (width : Nat) (v : Byte) : Byte := if inverted then v ^^^ mask 0 width else v

/-- R29: the member of an enumeration with code c. -/
def memberOf {α : Type} (members : List α) (code : α → Byte) (c : Byte) : Option α := members.find? (fun m => code m == c)

/-- R113: decode the CollectionMode field. -/
def decodeCollection (p : Params) (c : Byte) : Result :=
  match memberOf [.or, .and, .nand] (fun m => (p.collectCode m).setWidth 8) c with
  | some m => .collectionMode m
  | none => .unrecognised c.toNat

/-- R141: decode the ClockSource field. -/
def decodeClockSource (p : Params) (c : Byte) : Result :=
  match memberOf [.frontPanelA, .frontPanelB, .pllInput, .targetIOIn, .targetIOOut]
      (fun m => (p.clkSrcCode m).setWidth 8) c with
  | some m => .clockSource m
  | none => .unrecognised c.toNat

/-- R143: decode the TargetClockOut field. -/
def decodeClockOut (p : Params) (c : Byte) : Result :=
  match memberOf [.disabled, .clkgen, .glitchModule] (fun m => (p.clkOutCode m).setWidth 8) c with
  | some m => .targetClockOut m
  | none => .unrecognised c.toNat

/-- R155, R156: the trigger module a field value is the code of. -/
def trigModuleOf (p : Params) (c : Byte) : Option TriggerModule :=
  memberOf [.basic, .sadMatch, .advancedPattern, .decodeIO] (fun m => (p.trigModCode m).setWidth 8) c

/-- R156: decode the TriggerModule field. -/
def decodeTrigModule (p : Params) (c : Byte) : Result :=
  match trigModuleOf p c with
  | some m => .triggerModule m
  | none => .unrecognised c.toNat

/-- R122: the GPIO output bit of a route byte, 1 for High. -/
def routeGpio (p : Params) (b : Byte) (st : GPIOState) : Byte := setbits b p.gpioOutBit 1 (bitOf (st == .high))

/-- R123: IORoute byte 6 after setting special pin q: Disabled clears the enable bit only. -/
def specialGpio (b : Byte) (q : SpecialPin) (st : GPIOState) : Byte :=
  let enableBit := 2 * q.index
  if st == .disabled then b &&& ~~~ ((1 : Byte) <<< enableBit)
  else setbits (b ||| ((1 : Byte) <<< enableBit)) (enableBit + 1) 1 (bitOf (st == .high))

/-- R124: the state an enable bit and a state bit stand for. -/
def gpioStateOf (enable state : Bool) : GPIOState := if enable then (if state then .high else .low) else .disabled

/-- R83: the control byte with GO = 0 (setup, release). -/
def ctlIdle : Byte := 0x00

/-- R83: the control byte with GO = 1 (strobe). -/
def ctlStrobe : Byte := 0x04

/-- R84: the control word of direction rw, slave sla, register reg and control byte g. -/
def controlWordOf (rw : Direction) (sla reg : Reg7) (g : Byte) : ControlWord where
  ctl := g
  sab := (match rw with | .read => 0x80#8 | .write => 0x00#8) ||| sla.setWidth 8
  rab := 0x80#8 ||| reg.setWidth 8

/-- R83: the three bytes of a control word as written. -/
def ControlWord.bytes (w : ControlWord) : List Byte := [w.ctl, w.sab, w.rab]

/-- R83: `GO`. -/
def ControlWord.go (w : ControlWord) : Bool := w.ctl.getLsbD 2

/-- R83: `RD` as a direction. -/
def ControlWord.rw (w : ControlWord) : Direction := if w.sab.getLsbD 7 then .read else .write

/-- R83: `SLA`. -/
def ControlWord.sla (w : ControlWord) : Reg7 := w.sab.setWidth 7

/-- R83: `REG`. -/
def ControlWord.reg (w : ControlWord) : Reg7 := w.rab.setWidth 7

/-- R85: `ctl` is 0x00 or 0x04, and `REGV` is 1. -/
def ControlWord.valid (w : ControlWord) : Bool := (w.ctl == ctlIdle || w.ctl == ctlStrobe) && w.rab.getLsbD 7

/-- The PLL chip's slave address, R49 `PLL_SLA`. -/
def pllSla : Reg7 := 0x69

/-- The register of the presence signature, R7 `PLL_ID_REG`. -/
def pllIdReg : Reg7 := 0x00

/-- R51, R187: is the chip's signature byte that of a present chip? -/
def presentSignature (d : Byte) : Bool := (d &&& 0x0F) == 0x01

/-- R196: the third register of PLL_SETUP_PLL, patched from the byte h read. -/
def pllHiByte (p : PllMap) (n m : Nat) (bypass highspeed : Bool) (h : Byte) : Byte :=
  let h := setbits h p.mHiLo (p.mW - 8) (BitVec.ofNat 8 (m >>> 8))
  let h := setbits h p.nHiLo (p.nW - 8) (BitVec.ofNat 8 (n >>> 8))
  let h := setbits h p.bypassBit 1 (bitOf bypass)
  setbits h p.hsBit 1 (bitOf highspeed)

/-- R198: the shared clock-source register with divider d's subfield set. -/
def pllSourceByte (p : PllMap) (d clockSourceId : Nat) (old : Byte) : Byte :=
  setbits old (p.srcShift.get d) 3 (BitVec.ofNat 8 clockSourceId)

/-- R199: the output-control byte, composed whole, the unused bit 0. -/
def pllOutputByte (p : PllMap) (invert enabled : Bool) (divSource slewRate : Nat) : Byte :=
  (bitOf enabled <<< p.outEnBit.val) ||| (bitOf invert <<< p.outInvBit.val)
    ||| (BitVec.ofNat 8 slewRate <<< p.outSlewLo.val) ||| (BitVec.ofNat 8 divSource <<< p.outDivLo.val)

/-- R199: the register of output k, `OUT_BASE + k`. -/
def pllOutputReg (p : PllMap) (k : Nat) : Reg7 := BitVec.ofNat 7 (p.outBase + k)

/-- R200: the first clock-source register, its one bit patched. -/
def pllCs1Byte (p : PllMap) (differential useIN0 useIN1 : Bool) (r1 : Byte) : Byte :=
  setbits r1 p.cs1Bit 1 (bitOf (p.cs1Val.look differential useIN0 useIN1))

/-- R200: the second clock-source register, its two exclusive bits patched. -/
def pllCs2Byte (p : PllMap) (differential : Bool) (r2 : Byte) : Byte :=
  setbits (setbits r2 p.csDiffBit 1 (bitOf differential)) p.csSeBit 1 (bitOf (!differential))

end Sys2Proof.Machine
end

