-- ==== Sys2Proof/Machine/Flags.lean ====
section
/-! DEFINITION. The block's one flag, NACK (spec/10_state.md R43): how the engine sets it (45_i2c_master.md R173) and how the
status word shows it (30_encoding.md R86, 45_i2c_master.md R174). -/

namespace Sys2Proof.Machine

/-- R173: NACK after a transaction the slave answered with ack. -/
def nackAfter (ack : Bool) : Bool := !ack

/-- R174: byte 0 of the status word. Bit 0 is NACK when the flag is defined and the engine idle; every other bit, and the whole
byte otherwise, is the draw d. -/
def statusFirst (nack : Option Bool) (eng : Engine) (d : Byte) : Byte :=
  match nack, eng with
  | some n, .idle => (d &&& 0xFE) ||| bitOf n
  | _, _ => d

/-- R185 step 7: "if bit 0 of byte 0 is set". -/
def nackSet (status : List Byte) : Bool := (byteAt status 0).getLsbD 0

end Sys2Proof.Machine
end

