-- ==== Sys2Proof/Machine/Ops.lean ====
section
/-! DEFINITION. The named operations over the state: draws, the slave's register file, the I2C engine (spec/45_i2c_master.md),
the two transport commands (40_transport_rmw.md), how an operation ends or takes an error (60_exceptions.md R210, R211, R222),
and the sequencer's primitives and how it runs them (10_state.md R27). -/

namespace Sys2Proof.Machine

/-! Draws (R10) -/

/-- The draw k places ahead: the script's where it has one, else the free value numbered by its place. -/
def Draws.look {α : Type} (free : Nat → α) (d : Draws α) (k : Nat) : α := (d.script[k]?).getD (free (d.taken + k))

/-- The source after n draws. -/
def Draws.skip {α : Type} (d : Draws α) (n : Nat) : Draws α := ⟨d.script.drop n, d.taken + n⟩

/-- R102: does the command k places ahead fail? -/
def State.linkFails (s : State) (k : Nat) : Bool := s.link.look Config.linkFails k

/-- R176: does the caller stop at its (k+1)-th chance from here? -/
def State.callerStops (s : State) (k : Nat) : Bool := s.caller.look Config.callerStops k

/-- R173: has the engine completed by its (k+1)-th chance from here? -/
def State.engineDone (s : State) (k : Nat) : Bool := s.engine.look Config.engineDone k

/-- R10: the byte drawn k places ahead. -/
def State.noiseAt (s : State) (k : Nat) : Byte := s.noise.look Config.noise k

/-- R49: the lawless slave's answer k transactions ahead. -/
def State.slaveAt (s : State) (k : Nat) : Reply := s.slave.look Config.slaveReply k

/-- The next n drawn bytes. -/
def State.noises (s : State) (n : Nat) : List Byte := (List.range n).map s.noiseAt

/-! The slave's register file (R50) -/

/-- What an unlisted byte reads as (log entry 19). -/
def Memory.unlisted : Byte := 0

/-- The byte at address a. -/
def Memory.read : Memory → Nat → Byte
  | [], _ => Memory.unlisted
  | (k, v) :: rest, a => if k = a then v else Memory.read rest a

/-- The cells that hold byte v at address a and nothing else there: none where v is what an unlisted byte reads as. -/
def Memory.cell (a : Nat) (v : Byte) : Memory := if v = Memory.unlisted then [] else [(a, v)]

/-- Store v at address a, keeping the canonical form. -/
def Memory.write : Memory → Nat → Byte → Memory
  | [], a, v => Memory.cell a v
  | (k, w) :: rest, a, v =>
    if a < k then Memory.cell a v ++ (k, w) :: rest
    else if a = k then Memory.cell a v ++ rest
    else (k, w) :: Memory.write rest a v

/-- Every address from lo up: strictly rising, below 128, and no byte listed that reads as an unlisted one. -/
def Memory.wfFrom : Nat → Memory → Bool
  | _, [] => true
  | lo, (k, v) :: rest => decide (lo ≤ k) && decide (k < 128) && decide (v ≠ Memory.unlisted) && Memory.wfFrom (k + 1) rest

/-- The canonical form of a slave's register file. -/
def Memory.wf (m : Memory) : Bool := Memory.wfFrom 0 m

/-! The slave (R49, R50) -/

/-- R173 `slave_write`: the acknowledge, and the slave after it. -/
def State.slaveWrite (s : State) (sla reg : Reg7) (d : Byte) : Bool × State :=
  match s.bus with
  | .lawless => ((s.slaveAt 0).ack, { s with slave := s.slave.skip 1 })
  | .wellBehaved a f =>
    if sla = a then (true, { s with bus := .wellBehaved a (Memory.write f reg.toNat d) }) else (false, s)

/-- R173 `slave_read`: the acknowledge and the byte, and the slave after it. -/
def State.slaveRead (s : State) (sla reg : Reg7) : Reply × State :=
  match s.bus with
  | .lawless => (s.slaveAt 0, { s with slave := s.slave.skip 1 })
  | .wellBehaved a f => if sla = a then (⟨true, Memory.read f reg.toNat⟩, s) else (⟨false, 0⟩, s)

/-! The I2C engine (45_i2c_master.md) -/

/-- R173: the engine's completion step. Nothing happens unless the engine is busy. -/
def State.complete (s : State) : State :=
  match s.eng with
  | .busy t =>
    match t.rw with
    | .write =>
      let r := s.slaveWrite t.sla t.reg t.data
      { r.2 with nack := some (nackAfter r.1), eng := .idle }
    | .read =>
      let r := s.slaveRead t.sla t.reg
      { r.2 with nack := some (nackAfter r.1.ack), rxd := if r.1.ack then some r.1.data else none, eng := .idle }
  | _ => s

/-- R177: the engine enters or stays in Undefined; "every slave register file is unconstrained" (93 I2), so no law is left on
the slave (log entry 14). -/
def State.undefineEngine (s : State) : State := { s with eng := .undefined, bus := .lawless }

/-- R172 `prevGO`: drawn where no control word has been written (log entry 22). -/
def State.prevGo (s : State) : Bool :=
  match s.ctlLatch with
  | some w => w.go
  | none => (s.noiseAt 0).getLsbD 0

/-- The drawn bytes after `prevGo` was read. -/
def State.noiseAfterPrevGo (s : State) : Draws Byte :=
  match s.ctlLatch with
  | some _ => s.noise
  | none => s.noise.skip 1

/-- R172: a completed WRITE of the control word w to I2CStatus. A rising edge of GO starts a transaction, which takes `txd` with
it; the receive byte is then undefined (R174: "stays defined until the next transaction starts"; log entry 11). -/
def State.engineControlWrite (s : State) (w : ControlWord) : State :=
  match s.eng with
  | .undefined => { s with ctlLatch := some w }.undefineEngine
  | .busy _ => { s with ctlLatch := some w }.undefineEngine
  | .idle =>
    if w.go then
      if s.prevGo then { s with ctlLatch := some w, noise := s.noiseAfterPrevGo }
      else { s with ctlLatch := some w, noise := s.noiseAfterPrevGo, rxd := none, eng := .busy ⟨w.rw, w.sla, w.reg, s.txd⟩ }
    else { s with ctlLatch := some w }

/-- R101, R171, R177: a completed WRITE of b to I2CData. -/
def State.transmitWrite (s : State) (b : Byte) : State :=
  match s.eng with
  | .idle => { s with txd := b }
  | _ => { s with txd := b }.undefineEngine

/-! The transport commands (R100 to R102) -/

/-- R100, R174: the bytes a READ of address a returns, and how many draws they take. -/
def State.response (s : State) (a : Nat) : List Byte × Nat :=
  match a with
  | 38 => ([s.extClk], 0)
  | 39 => ([s.trigSrc], 0)
  | 40 => ([s.trigMod], 0)
  | 47 => ([statusFirst s.nack s.eng (s.noiseAt 0), s.noiseAt 1, s.noiseAt 2], 3)
  | 48 =>
    match s.rxd, s.eng with
    | some b, .idle => ([b], 0)
    | _, _ => ([s.noiseAt 0], 1)
  | 55 => (s.ioRoute, 0)
  | _ => ([], 0)

/-- R101: the effect of a completed WRITE of v to address a. -/
def State.store (s : State) (a : Nat) (v : List Byte) : State :=
  match a, v with
  | 38, [b] => { s with extClk := b }
  | 39, [b] => { s with trigSrc := b }
  | 40, [b] => { s with trigMod := b }
  | 47, [c, d, e] => s.engineControlWrite ⟨c, d, e⟩
  | 48, [b] => s.transmitWrite b
  | 55, bs => { s with ioRoute := bs }
  | _, _ => s

/-- R102: the effect of a WRITE of n bytes to address a that failed: its register holds drawn bytes, and nothing else
changes but the engine for address 47. -/
def State.garble (s : State) (a n : Nat) : State :=
  match a with
  | 38 => { s with extClk := s.noiseAt 0, noise := s.noise.skip 1 }
  | 39 => { s with trigSrc := s.noiseAt 0, noise := s.noise.skip 1 }
  | 40 => { s with trigMod := s.noiseAt 0, noise := s.noise.skip 1 }
  | 47 =>
    { s with ctlLatch := some ⟨s.noiseAt 0, s.noiseAt 1, s.noiseAt 2⟩, noise := s.noise.skip 3 }.undefineEngine
  | 48 => { s with txd := s.noiseAt 0, noise := s.noise.skip 1 }
  | 55 => { s with ioRoute := s.noises n, noise := s.noise.skip n }
  | _ => s

/-- R220: append to the command trace. -/
def State.record (s : State) (t : Traffic) : State := { s with trace := s.trace ++ [t] }

/-- R100: one READ of n bytes at address a: its response, none where it failed, and the state after it. -/
def State.readCommand (s : State) (a n : Nat) : Option (List Byte) × State :=
  let s1 := { s with link := s.link.skip 1 }
  if s.linkFails 0 then (none, s1.record (.read a n none))
  else (some (s.response a).1, { s1.record (.read a n (some (s.response a).1)) with noise := s.noise.skip (s.response a).2 })

/-- R101: one WRITE of v to address a: whether it completed, and the state after it. -/
def State.writeCommand (s : State) (a : Nat) (v : List Byte) : Bool × State :=
  let s1 := { s with link := s.link.skip 1 }
  if s.linkFails 0 then (false, (s1.record (.write a v false)).garble a v.length)
  else (true, (s1.record (.write a v true)).store a v)

/-- R101, R85: may a payload go to address a? Any but a reserved control word at 47. -/
def payloadValid (a : Nat) (v : List Byte) : Bool :=
  match a, v with
  | 47, [c, d, e] => (ControlWord.mk c d e).valid
  | _, _ => true

/-! How an operation ends (R211, R213, R222) -/

/-- The phase an operation leaves: Idle, but Unconstructed for a failed construction (R25, R233). -/
def restPhase (op : Instr) (ok : Bool) : Phase :=
  match op, ok with
  | .init _, false => .unconstructed
  | _, _ => .idle

/-- R214: what an operation that meets error e reports. Only PLL_IS_PRESENT keeps an error to itself (R187). -/
def reportOf (p : Params) (op : Instr) (e : OpError) : Report :=
  match op, e with
  | .pllIsPresent, .transportFailure _ => .ok (.bool false)
  | .pllIsPresent, .noAcknowledge sla reg =>
    match p.presentOnNack with
    | .absent => .ok (.bool false)
    | .propagate => .error (.noAcknowledge sla reg)
  | _, e => .error e

/-- R27 `return`: the operation ends with result r. -/
def State.returned (s : State) (op : Instr) (r : Result) : State :=
  { s with phase := restPhase op true, buf := none, report := .ok r }

/-- R211: the operation takes error e: nothing more of it is issued, what was completed stands, the caller gets the kind. -/
def State.raised (s : State) (op : Instr) (e : OpError) : State :=
  { s with phase := restPhase op false, buf := none, report := reportOf s.cfg.params op e }

/-- R213, R222: a refusal sets the refusal mark and reports nothing. -/
def State.refuse (s : State) (r : RefusalReason) : State :=
  { s with refused := true, refusal := some r, report := .none }

/-- R222: the running operation is refused. -/
def State.refusedIn (s : State) (op : Instr) (r : RefusalReason) : State :=
  { s.refuse r with phase := restPhase op false, buf := none }

/-- R176, D39: the caller stops inside a handshake: the operation ends with no result and the engine is Undefined. -/
def State.abandoned (s : State) (op : Instr) : State :=
  { s.undefineEngine with phase := restPhase op false, buf := none, report := .none }

/-- R30: emit an event. -/
def State.emitted (s : State) (lock : Bool) : State := { s with events := s.events ++ [EdgeLock.mk lock] }

/-- The sequencer moves to step pc (R10 `pc <- s`). -/
def State.moveTo (s : State) (op : Instr) (pc : Nat) : State := { s with phase := .running op pc }

/-! The sequencer's primitives (R27) -/

/-- What a step index of an operation's body says to do next. -/
inductive Act where
  /-- `buf <- MemRead(addr, len)`. -/
  | read (addr len : Nat)
  /-- `MemWrite(addr, payload)`. -/
  | write (addr : Nat) (payload : List Byte)
  /-- A control WRITE of the I2C handshake. `inside`: a setup WRITE has been issued, so the caller may abandon it here (R176). -/
  | control (inside : Bool) (w : ControlWord)
  /-- `Wait(T_SETTLE)`; `inside` as for `control`. -/
  | wait (inside : Bool)
  /-- `st <- MemRead(47, 3)`, then `raise NoAcknowledge(sla, reg)` if NACK is set (R185 step 7). -/
  | status (sla reg : Reg7)
  /-- `emit EdgeLock(lock)`. -/
  | emit (lock : Bool)
  /-- An `if` that selects the branch whose first primitive is step pc. -/
  | jump (pc : Nat)
  | ret (r : Result)
  | raise (e : OpError)
  | refuse (r : RefusalReason)
  /-- The body used `buf` before a READ of the operation wrote it (R22). -/
  | stale
deriving DecidableEq, Repr

/-- A READ primitive. -/
def State.doRead (s : State) (op : Instr) (pc addr len : Nat) : State :=
  if admitted s.cfg.params addr len then
    match s.readCommand addr len with
    | (some bs, t) => { t with buf := some bs }.moveTo op (pc + 1)
    | (none, t) => t.raised op (.transportFailure addr)
  else s.refusedIn op .commandAddress

/-- A WRITE primitive. -/
def State.doWrite (s : State) (op : Instr) (pc addr : Nat) (v : List Byte) : State :=
  if admitted s.cfg.params addr v.length then
    if payloadValid addr v then
      match s.writeCommand addr v with
      | (true, t) => t.moveTo op (pc + 1)
      | (false, t) => t.raised op (.transportFailure addr)
    else s.refusedIn op .controlWord
  else s.refusedIn op .commandAddress

/-- A control WRITE primitive. -/
def State.doControl (s : State) (op : Instr) (pc : Nat) (w : ControlWord) : State :=
  match s.writeCommand 47 w.bytes with
  | (true, t) => t.moveTo op (pc + 1)
  | (false, t) => t.raised op (.transportFailure 47)

/-- R180: a settle wait. It ends when the engine is not busy, so a busy engine takes its completion step first. -/
def State.doWait (s : State) (op : Instr) (pc : Nat) : State := (s.complete.record .wait).moveTo op (pc + 1)

/-- A status READ with its check of NACK (R185 step 7). -/
def State.doStatus (s : State) (op : Instr) (pc : Nat) (sla reg : Reg7) : State :=
  match s.readCommand 47 3 with
  | (some bs, t) => if nackSet bs then t.raised op (.noAcknowledge sla reg) else { t with buf := some bs }.moveTo op (pc + 1)
  | (none, t) => t.raised op (.transportFailure 47)

/-- R176: at a primitive inside a handshake the caller may stop; otherwise the primitive is performed. -/
def State.unlessAbandoned (s : State) (op : Instr) (inside : Bool) (k : State → State) : State :=
  if inside then
    let s1 := { s with caller := s.caller.skip 1 }
    if s.callerStops 0 then s1.abandoned op else k s1
  else k s

/-- Perform one primitive of the running operation op at step pc. -/
def perform (op : Instr) (pc : Nat) (a : Act) (s : State) : Out :=
  match a with
  | .read addr len => .next (s.doRead op pc addr len)
  | .write addr v => .next (s.doWrite op pc addr v)
  | .control inside w => .next (s.unlessAbandoned op inside (fun t => t.doControl op pc w))
  | .wait inside => .next (s.unlessAbandoned op inside (fun t => t.doWait op pc))
  | .status sla reg => .next (s.doStatus op pc sla reg)
  | .emit lock => .next ((s.emitted lock).moveTo op (pc + 1))
  | .jump k => .next (s.moveTo op k)
  | .ret r => .next (s.returned op r)
  | .raise e => .next (s.raised op e)
  | .refuse r => .next (s.refusedIn op r)
  | .stale => .fault .staleBuffer

/-- Run the operation in progress by its body for at most n primitives, or to its end. -/
def drive (body : State → Nat → Act) : Nat → State → Out
  | 0, s => .next s
  | n + 1, s =>
    match s.phase with
    | .running op pc =>
      match perform op pc (body s pc) s with
      | .next t => drive body n t
      | o => o
    | _ => .next s

/-- More primitives than any operation takes (R27: at most 20 commands and 12 waits). -/
def opFuel : Nat := 64

/-- R27: the request is accepted: the operation runs from step 0 with no `buf`. -/
def State.accept (s : State) (op : Instr) : State := { s with phase := .running op 0, buf := none, report := .none }

/-- A request other than INIT: refused before construction (R25), not accepted while an operation runs (R26), else run. -/
def request (op : Instr) (body : State → Nat → Act) (s : State) : Out :=
  match s.phase with
  | .running _ _ => .next s
  | .unconstructed => .next (s.refuse .unconstructed)
  | .idle => drive body opFuel (s.accept op)

/-! Checks that come before the first command (R90, R213), and the use of `buf` -/

/-- R90: a boolean argument; any value but 0 and 1 is refused. -/
def boolArg (n : Nat) (k : Bool → Act) : Act :=
  match n with
  | 0 => k false
  | 1 => k true
  | _ => .refuse .booleanArgument

/-- R90: an enumeration argument decoded from its code; a code outside the enumeration raises InvalidChannel. -/
def selector {α : Type} (decoded : Option α) (code : Nat) (k : α → Act) : Act :=
  match decoded with
  | some a => k a
  | none => .raise (.invalidChannel code)

/-- R213 step 4: a value that is not allowed raises InvalidParameter. -/
def allowed (ok : Bool) (args : List Nat) (k : Act) : Act := if ok then k else .raise (.invalidParameter args)

/-- R22: use the response of the operation's most recent READ. -/
def withBuf (s : State) (k : List Byte → Act) : Act :=
  match s.buf with
  | some bs => k bs
  | none => .stale

/-- R24: a flag of the capability profile; no flag is set where there is no profile (log entry 25). -/
def State.capability (s : State) (flag : Profile → Bool) : Bool :=
  match s.caps with
  | some c => flag c
  | none => false

/-- R24: is the trigger module legal for the variant? None is where there is no variant (log entry 25). -/
def State.trigModLegal (s : State) (m : TriggerModule) : Bool :=
  match s.variant with
  | some v => (s.cfg.params.legalTrigMod v).contains m
  | none => false

end Sys2Proof.Machine
end

