-- ==== Sys2Proof/Machine/ClockRouting.lean ====
section
/-! DEFINITION. Clock routing, register ExternalClock (38), and the front-panel trigger output, TriggerModule (40) bit 3
(spec/43_clock_routing.md R140 to R145). -/

namespace Sys2Proof.Machine

/-- R140, R24: PLLInput needs `hasPLL`, FrontPanelA and FrontPanelB need `hasFrontPanelPins`. -/
def clockSourceAllowed (s : State) : ClockSource → Bool
  | .pllInput => s.capability (·.hasPLL)
  | .frontPanelA => s.capability (·.hasFrontPanelPins)
  | .frontPanelB => s.capability (·.hasFrontPanelPins)
  | .targetIOIn => true
  | .targetIOOut => true

/-- R140. -/
def setClockSourceBody (source : Nat) (s : State) (pc : Nat) : Act :=
  selector (ClockSource.ofCode source) source fun src =>
  allowed (clockSourceAllowed s src) [source] <|
  match pc with
  | 0 => .read 38 1
  | 1 => withBuf s fun buf => .write 38 [setbits (byteAt buf 0) 0 3 ((s.cfg.params.clkSrcCode src).setWidth 8)]
  | _ => .ret .nothing

/-- R140 SET_CLOCK_SOURCE. -/
def execSetClockSource (source : Nat) (s : State) : Out :=
  request (.setClockSource source) (setClockSourceBody source) s

/-- R141. -/
def getClockSourceBody (s : State) (pc : Nat) : Act :=
  match pc with
  | 0 => .read 38 1
  | _ => withBuf s fun buf => .ret (decodeClockSource s.cfg.params (getbits (byteAt buf 0) 0 3))

/-- R141 GET_CLOCK_SOURCE. -/
def execGetClockSource (s : State) : Out := request .getClockSource getClockSourceBody s

/-- R142, R24: GlitchModule needs `hasGlitchOutput` only where `GLITCH_GATED`. -/
def clockOutAllowed (s : State) (m : TargetClockOut) : Bool :=
  !(s.cfg.params.glitchGated && m == .glitchModule) || s.capability (·.hasGlitchOutput)

/-- R142. -/
def setTargetClockOutBody (mode : Nat) (s : State) (pc : Nat) : Act :=
  selector (TargetClockOut.ofCode mode) mode fun m =>
  allowed (clockOutAllowed s m) [mode] <|
  match pc with
  | 0 => .read 38 1
  | 1 => withBuf s fun buf => .write 38 [setbits (byteAt buf 0) 5 2 ((s.cfg.params.clkOutCode m).setWidth 8)]
  | _ => .ret .nothing

/-- R142 SET_TARGET_CLOCK_OUT. -/
def execSetTargetClockOut (mode : Nat) (s : State) : Out :=
  request (.setTargetClockOut mode) (setTargetClockOutBody mode) s

/-- R143. -/
def getTargetClockOutBody (s : State) (pc : Nat) : Act :=
  match pc with
  | 0 => .read 38 1
  | _ => withBuf s fun buf => .ret (decodeClockOut s.cfg.params (getbits (byteAt buf 0) 5 2))

/-- R143 GET_TARGET_CLOCK_OUT. -/
def execGetTargetClockOut (s : State) : Out := request .getTargetClockOut getTargetClockOutBody s

/-- R144. -/
def setTrigoutFpaBody (enabled : Nat) (s : State) (pc : Nat) : Act :=
  boolArg enabled fun on =>
  allowed (s.capability (·.hasFrontPanelPins)) [] <|
  match pc with
  | 0 => .read 40 1
  | 1 => withBuf s fun buf => .write 40 [setbits (byteAt buf 0) 3 1 (bitOf on)]
  | _ => .ret .nothing

/-- R144 SET_TRIGOUT_FPA. -/
def execSetTrigoutFpa (enabled : Nat) (s : State) : Out := request (.setTrigoutFpa enabled) (setTrigoutFpaBody enabled) s

/-- R145. -/
def getTrigoutFpaBody (s : State) (pc : Nat) : Act :=
  allowed (s.capability (·.hasFrontPanelPins)) [] <|
  match pc with
  | 0 => .read 40 1
  | _ => withBuf s fun buf => .ret (.bool ((byteAt buf 0).getLsbD 3))

/-- R145 GET_TRIGOUT_FPA. -/
def execGetTrigoutFpa (s : State) : Out := request .getTrigoutFpa getTrigoutFpaBody s

end Sys2Proof.Machine
end

