-- ==== Sys2Proof/Machine/Construction.lean ====
section
/-! DEFINITION. INIT, the construction of the block for one variant (spec/70_reset_and_hazards.md R233; 43_clock_routing.md
R146). -/

namespace Sys2Proof.Machine

/-- R89: the code of ClockSource TargetIOIn. -/
def targetIOInCode : Nat := 3

/-- R146, R233: the quirk variant runs SET_CLOCK_SOURCE TargetIOIn "via the normal setClockSource path". -/
def initBody (v : HardwareVariant) (s : State) (pc : Nat) : Act :=
  if v = s.cfg.params.quirkVariant then setClockSourceBody targetIOInCode s pc else .ret .nothing

/-- R233 INIT: refused on a constructed block; an unknown variant raises UnsupportedVariant; else variant and profile are set
and the quirk variant's default applied. -/
def execInit (variant : Nat) (s : State) : Out :=
  match s.phase with
  | .running _ _ => .next s
  | .idle => .next (s.refuse .constructed)
  | .unconstructed =>
    match HardwareVariant.ofCode variant with
    | none => .next (s.raised (.init variant) (.unsupportedVariant variant))
    | some v =>
      drive (initBody v) opFuel
        ({ s with variant := some v, caps := some (s.cfg.params.capsOf v) }.accept (.init variant))

end Sys2Proof.Machine
end

