-- ==== Sys2Proof/Machine/I2C.lean ====
section
/-! DEFINITION. The I2C byte operations (spec/45_i2c_master.md R185 to R187): the three-phase handshake, eight primitives each
for a read and a write, and the presence probe. -/

namespace Sys2Proof.Machine

/-- R185: primitive k of the byte read of register reg at slave sla. The caller may abandon it from the setup WRITE until the
release WRITE has completed (R176). -/
def i2cReadPrim (sla reg : Reg7) (k : Nat) : Act :=
  match k with
  | 0 => .control false (controlWordOf .read sla reg ctlIdle)
  | 1 => .wait true
  | 2 => .control true (controlWordOf .read sla reg ctlStrobe)
  | 3 => .wait true
  | 4 => .control true (controlWordOf .read sla reg ctlIdle)
  | 5 => .wait false
  | 6 => .status sla reg
  | _ => .read 48 1

/-- R186: primitive k of the byte write of register reg at slave sla; `data` is the WRITE of the data byte, which comes first. -/
def i2cWritePrim (sla reg : Reg7) (data : Act) (k : Nat) : Act :=
  match k with
  | 0 => data
  | 1 => .control false (controlWordOf .write sla reg ctlIdle)
  | 2 => .wait true
  | 3 => .control true (controlWordOf .write sla reg ctlStrobe)
  | 4 => .wait true
  | 5 => .control true (controlWordOf .write sla reg ctlIdle)
  | 6 => .wait false
  | _ => .status sla reg

/-- R186: the WRITE of the data byte. -/
def dataWrite (d : Byte) : Act := .write 48 [d]

/-- R185, D10: both numbers are at most 0x7F, or the request is refused. -/
def i2cNumbers (reg sla : Nat) (k : Reg7 → Reg7 → Act) : Act :=
  if 0x7F < reg ∨ 0x7F < sla then .refuse .i2cAddress else k (BitVec.ofNat 7 reg) (BitVec.ofNat 7 sla)

/-- R185. -/
def i2cReadByteBody (reg sla : Nat) (s : State) (pc : Nat) : Act :=
  i2cNumbers reg sla fun r a =>
  if pc < 8 then i2cReadPrim a r pc
  else withBuf s fun buf => .ret (.byte (byteAt buf 0))

/-- R185 I2C_READ_BYTE. -/
def execI2cReadByte (reg sla : Nat) (s : State) : Out := request (.i2cReadByte reg sla) (i2cReadByteBody reg sla) s

/-- R186. -/
def i2cWriteByteBody (reg : Nat) (data : Byte) (sla : Nat) (_ : State) (pc : Nat) : Act :=
  i2cNumbers reg sla fun r a =>
  if pc < 8 then i2cWritePrim a r (dataWrite data) pc
  else .ret .nothing

/-- R186 I2C_WRITE_BYTE. -/
def execI2cWriteByte (reg : Nat) (data : Byte) (sla : Nat) (s : State) : Out :=
  request (.i2cWriteByte reg data sla) (i2cWriteByteBody reg data sla) s

/-- R187: the byte read of register 0x00 at 0x69; its errors are met in `reportOf`. -/
def pllIsPresentBody (s : State) (pc : Nat) : Act :=
  if pc < 8 then i2cReadPrim pllSla pllIdReg pc
  else withBuf s fun buf => .ret (.bool (presentSignature (byteAt buf 0)))

/-- R187 PLL_IS_PRESENT. -/
def execPllIsPresent (s : State) : Out := request .pllIsPresent pllIsPresentBody s

end Sys2Proof.Machine
end

