-- ==== Sys2Proof/Machine/Pll.lean ====
section
/-! DEFINITION. PLL programming over I2C (spec/46_pll_programming.md R196 to R200): sequences of I2C byte operations of eight
primitives each, all at slave 0x69. -/

namespace Sys2Proof.Machine

/-- The WRITE of a data byte computed from the byte an I2C read has just returned. -/
def patchedWrite (s : State) (f : Byte → Byte) : Act := withBuf s fun buf => dataWrite (f (byteAt buf 0))

/-- R196: M low byte, N low byte, then the third register read, patched and always written. -/
def pllSetupPllBody (n m bypass highspeed num : Nat) (s : State) (pc : Nat) : Act :=
  boolArg bypass fun by_ =>
  boolArg highspeed fun hs =>
  let p := s.cfg.params.pll
  if 2 ^ p.nW ≤ n ∨ 2 ^ p.mW ≤ m then .refuse .pllWidth
  else
    allowed (num == 1) [num] <|
    if pc < 8 then i2cWritePrim pllSla p.mReg (dataWrite (BitVec.ofNat 8 (m % 256))) pc
    else if pc < 16 then i2cWritePrim pllSla p.nReg (dataWrite (BitVec.ofNat 8 (n % 256))) (pc - 8)
    else if pc < 24 then i2cReadPrim pllSla p.hiReg (pc - 16)
    else if pc < 32 then i2cWritePrim pllSla p.hiReg (patchedWrite s (pllHiByte p n m by_ hs)) (pc - 24)
    else .ret .nothing

/-- R196 PLL_SETUP_PLL. -/
def execPllSetupPll (n m bypass highspeed num : Nat) (s : State) : Out :=
  request (.pllSetupPll n m bypass highspeed num) (pllSetupPllBody n m bypass highspeed num) s

/-- R198: the divider register, then the 3-bit source subfield, written only where it changes. -/
def pllSetupDividerBody (setting clockSourceId divNum : Nat) (s : State) (pc : Nat) : Act :=
  let p := s.cfg.params.pll
  if 7 < clockSourceId then .refuse .clockSourceId
  else
    allowed (decide (divNum ≤ 5)) [divNum] <|
    allowed (decide (1 ≤ setting ∧ setting ≤ 127)) [setting] <|
    if pc < 8 then i2cWritePrim pllSla (p.divReg.get divNum) (dataWrite (BitVec.ofNat 8 setting)) pc
    else if pc < 16 then i2cReadPrim pllSla (p.srcReg divNum) (pc - 8)
    else if pc = 16 then withBuf s fun buf =>
      if pllSourceByte p divNum clockSourceId (byteAt buf 0) = byteAt buf 0 then .jump 24
      else dataWrite (pllSourceByte p divNum clockSourceId (byteAt buf 0))
    else if pc < 24 then i2cWritePrim pllSla (p.srcReg divNum) (dataWrite 0) (pc - 16)
    else .ret .nothing

/-- R198 PLL_SETUP_DIVIDER. -/
def execPllSetupDivider (setting clockSourceId divNum : Nat) (s : State) : Out :=
  request (.pllSetupDivider setting clockSourceId divNum) (pllSetupDividerBody setting clockSourceId divNum) s

/-- R199: one byte composed whole and written without a read. -/
def pllSetupOutputBody (outNum invert enabled divSource slewRate : Nat) (s : State) (pc : Nat) : Act :=
  boolArg invert fun inv =>
  boolArg enabled fun on =>
  let p := s.cfg.params.pll
  if 5 < outNum ∨ 3 < slewRate then .refuse .outputNumber
  else
    allowed (decide (divSource ≤ 5)) [divSource] <|
    if pc < 8 then i2cWritePrim pllSla (pllOutputReg p outNum) (dataWrite (pllOutputByte p inv on divSource slewRate)) pc
    else .ret .nothing

/-- R199 PLL_SETUP_OUTPUT. -/
def execPllSetupOutput (outNum invert enabled divSource slewRate : Nat) (s : State) : Out :=
  request (.pllSetupOutput outNum invert enabled divSource slewRate)
    (pllSetupOutputBody outNum invert enabled divSource slewRate) s

/-- R200: the first register's bit, patched and always written where `CS1_COND` holds; then the second register's two bits,
written only where the byte changes. -/
def pllSetupClockSourceBody (differential useIN0 useIN1 : Nat) (s : State) (pc : Nat) : Act :=
  boolArg differential fun diff =>
  boolArg useIN0 fun in0 =>
  boolArg useIN1 fun in1 =>
  let p := s.cfg.params.pll
  allowed (diff || in0 != in1) [] <|
  if pc = 0 then
    if p.cs1Cond.look diff in0 in1 then i2cReadPrim pllSla p.cs1Reg 0 else .jump 16
  else if pc < 8 then i2cReadPrim pllSla p.cs1Reg pc
  else if pc < 16 then i2cWritePrim pllSla p.cs1Reg (patchedWrite s (pllCs1Byte p diff in0 in1)) (pc - 8)
  else if pc < 24 then i2cReadPrim pllSla p.cs2Reg (pc - 16)
  else if pc = 24 then withBuf s fun buf =>
    if pllCs2Byte p diff (byteAt buf 0) = byteAt buf 0 then .jump 32
    else dataWrite (pllCs2Byte p diff (byteAt buf 0))
  else if pc < 32 then i2cWritePrim pllSla p.cs2Reg (dataWrite 0) (pc - 24)
  else .ret .nothing

/-- R200 PLL_SETUP_CLOCK_SOURCE. -/
def execPllSetupClockSource (differential useIN0 useIN1 : Nat) (s : State) : Out :=
  request (.pllSetupClockSource differential useIN0 useIN1) (pllSetupClockSourceBody differential useIN0 useIN1) s

end Sys2Proof.Machine
end

