-- ==== Sys2Proof/Machine/TargetIO.lean ====
section
/-! DEFINITION. Target IO routing, GPIO, power and glitch outputs, register IORoute (55) (spec/42_target_io.md R120 to R129).
Every setter writes the whole array back with one byte replaced. -/

namespace Sys2Proof.Machine

/-- R120. -/
def setIoRouteBody (pinIndex mode : Nat) (s : State) (pc : Nat) : Act :=
  selector (TargetPin.ofIndex pinIndex) pinIndex fun p =>
  selector (RouteMode.ofCode mode) mode fun m =>
  allowed ((s.cfg.params.legalRoute p).contains m) [pinIndex, mode] <|
  match pc with
  | 0 => .read 55 s.cfg.params.ioRouteLen
  | 1 => withBuf s fun buf => .write 55 (buf.set p.routeByte (s.cfg.params.routeCode m))
  | _ => .ret .nothing

/-- R120 SET_IOROUTE. -/
def execSetIoRoute (pinIndex mode : Nat) (s : State) : Out :=
  request (.setIoRoute pinIndex mode) (setIoRouteBody pinIndex mode) s

/-- R121. -/
def getIoRouteBody (pinIndex : Nat) (s : State) (pc : Nat) : Act :=
  selector (TargetPin.ofIndex pinIndex) pinIndex fun p =>
  match pc with
  | 0 => .read 55 s.cfg.params.ioRouteLen
  | _ => withBuf s fun buf => .ret (.byte (byteAt buf p.routeByte))

/-- R121 GET_IOROUTE. -/
def execGetIoRoute (pinIndex : Nat) (s : State) : Out := request (.getIoRoute pinIndex) (getIoRouteBody pinIndex) s

/-- R122: a regular pin, whose route byte must have the GPIO-enabled bit set. -/
def setRegularGpioBody (gpioPin state : Nat) (p : TargetPin) (st : GPIOState) (s : State) (pc : Nat) : Act :=
  allowed (st != .disabled) [gpioPin, state] <|
  match pc with
  | 0 => .read 55 s.cfg.params.ioRouteLen
  | 1 => withBuf s fun buf =>
      if (byteAt buf p.routeByte).getLsbD s.cfg.params.gpioEnBit then
        .write 55 (buf.set p.routeByte (routeGpio s.cfg.params (byteAt buf p.routeByte) st))
      else .raise (.pinModeMismatch gpioPin)
  | _ => .ret .nothing

/-- R123: a special pin, whose bit pair lies in byte 6. -/
def setSpecialGpioBody (q : SpecialPin) (st : GPIOState) (s : State) (pc : Nat) : Act :=
  match pc with
  | 0 => .read 55 s.cfg.params.ioRouteLen
  | 1 => withBuf s fun buf => .write 55 (buf.set 6 (specialGpio (byteAt buf 6) q st))
  | _ => .ret .nothing

/-- R122, R123. -/
def setGpioStateBody (gpioPin state : Nat) (s : State) (pc : Nat) : Act :=
  selector (GPIOPin.ofCode gpioPin) gpioPin fun g =>
  selector (GPIOState.ofCode state) state fun st =>
  match g with
  | .regular p => setRegularGpioBody gpioPin state p st s pc
  | .special q => setSpecialGpioBody q st s pc

/-- R122, R123 SET_GPIO_STATE. -/
def execSetGpioState (gpioPin state : Nat) (s : State) : Out :=
  request (.setGpioState gpioPin state) (setGpioStateBody gpioPin state) s

/-- R124: the decoded state of a GPIO pin in an IORoute array. -/
def gpioStateIn (p : Params) (buf : List Byte) : GPIOPin → GPIOState
  | .regular t => gpioStateOf ((byteAt buf t.routeByte).getLsbD p.gpioEnBit) ((byteAt buf t.routeByte).getLsbD p.gpioOutBit)
  | .special q => gpioStateOf ((byteAt buf 6).getLsbD (2 * q.index)) ((byteAt buf 6).getLsbD (2 * q.index + 1))

/-- R124. -/
def getGpioStateBody (gpioPin : Nat) (s : State) (pc : Nat) : Act :=
  selector (GPIOPin.ofCode gpioPin) gpioPin fun g =>
  match pc with
  | 0 => .read 55 s.cfg.params.ioRouteLen
  | _ => withBuf s fun buf => .ret (.gpioState (gpioStateIn s.cfg.params buf g))

/-- R124 GET_GPIO_STATE. -/
def execGetGpioState (gpioPin : Nat) (s : State) : Out := request (.getGpioState gpioPin) (getGpioStateBody gpioPin) s

/-- R126: bit 1 of byte 5 is the power-disable flag, inverted polarity. -/
def setPowerStateBody (enabled : Nat) (s : State) (pc : Nat) : Act :=
  boolArg enabled fun on =>
  match pc with
  | 0 => .read 55 s.cfg.params.ioRouteLen
  | 1 => withBuf s fun buf => .write 55 (buf.set 5 (setbits (byteAt buf 5) 1 1 (bitOf (!on))))
  | _ => .ret .nothing

/-- R126 SET_POWER_STATE. -/
def execSetPowerState (enabled : Nat) (s : State) : Out := request (.setPowerState enabled) (setPowerStateBody enabled) s

/-- R127. -/
def getPowerStateBody (s : State) (pc : Nat) : Act :=
  match pc with
  | 0 => .read 55 s.cfg.params.ioRouteLen
  | _ => withBuf s fun buf => .ret (.bool (!(byteAt buf 5).getLsbD 1))

/-- R127 GET_POWER_STATE. -/
def execGetPowerState (s : State) : Out := request .getPowerState getPowerStateBody s

/-- R128. -/
def setGlitchOutEnBody (channel enabled : Nat) (s : State) (pc : Nat) : Act :=
  boolArg enabled fun on =>
  selector (Channel.ofCode channel) channel fun c =>
  allowed (!s.cfg.params.glitchGated || s.capability (·.hasGlitchOutput)) [channel] <|
  match pc with
  | 0 => .read 55 s.cfg.params.ioRouteLen
  | 1 => withBuf s fun buf => .write 55 (buf.set 4 (setbits (byteAt buf 4) c.bit 1 (bitOf on)))
  | _ => .ret .nothing

/-- R128 SET_GLITCH_OUT_EN. -/
def execSetGlitchOutEn (channel enabled : Nat) (s : State) : Out :=
  request (.setGlitchOutEn channel enabled) (setGlitchOutEnBody channel enabled) s

/-- R129. -/
def getGlitchOutEnBody (channel : Nat) (s : State) (pc : Nat) : Act :=
  selector (Channel.ofCode channel) channel fun c =>
  match pc with
  | 0 => .read 55 s.cfg.params.ioRouteLen
  | _ => withBuf s fun buf => .ret (.bool ((byteAt buf 4).getLsbD c.bit))

/-- R129 GET_GLITCH_OUT_EN. -/
def execGetGlitchOutEn (channel : Nat) (s : State) : Out :=
  request (.getGlitchOutEn channel) (getGlitchOutEnBody channel) s

end Sys2Proof.Machine
end

