-- ==== Sys2Proof/Machine/Transport.lean ====
section
/-! DEFINITION. READ, WRITE, FIELD_SET, FIELD_GET (spec/40_transport_rmw.md R100 to R105). A body gives the primitive at each
step index of its rule's pseudocode (10_state.md R27); the lines before `match pc` are the checks that precede the first
command (60_exceptions.md R213). -/

namespace Sys2Proof.Machine

/-- R100. -/
def readBody (addr len : Nat) (s : State) (pc : Nat) : Act :=
  match pc with
  | 0 => .read addr len
  | _ => withBuf s fun buf => .ret (.bytes buf)

/-- R100 READ. -/
def execRead (addr len : Nat) (s : State) : Out := request (.read addr len) (readBody addr len) s

/-- R101. -/
def writeBody (addr : Nat) (payload : List Byte) (_ : State) (pc : Nat) : Act :=
  match pc with
  | 0 => .write addr payload
  | _ => .ret .nothing

/-- R101 WRITE. -/
def execWrite (addr : Nat) (payload : List Byte) (s : State) : Out :=
  request (.write addr payload) (writeBody addr payload) s

/-- R104. -/
def fieldSetBody (addr byteOff bitOff width inverted value : Nat) (s : State) (pc : Nat) : Act :=
  boolArg inverted fun inv =>
  if descriptorValid s.cfg.params addr byteOff bitOff width then
    allowed (decide (value < 2 ^ width)) [value] <|
    match pc with
    | 0 => .read addr ((widthOf s.cfg.params addr).getD 0)
    | 1 => withBuf s fun buf =>
        .write addr (buf.set byteOff
          (setbits (byteAt buf byteOff) bitOff width (polarity inv width (BitVec.ofNat 8 value))))
    | _ => .ret .nothing
  else .refuse .fieldDescriptor

/-- R104 FIELD_SET. -/
def execFieldSet (addr byteOff bitOff width inverted value : Nat) (s : State) : Out :=
  request (.fieldSet addr byteOff bitOff width inverted value)
    (fieldSetBody addr byteOff bitOff width inverted value) s

/-- R105. -/
def fieldGetBody (addr byteOff bitOff width inverted : Nat) (s : State) (pc : Nat) : Act :=
  boolArg inverted fun inv =>
  if descriptorValid s.cfg.params addr byteOff bitOff width then
    match pc with
    | 0 => .read addr ((widthOf s.cfg.params addr).getD 0)
    | _ => withBuf s fun buf => .ret (.field (polarity inv width (getbits (byteAt buf byteOff) bitOff width)))
  else .refuse .fieldDescriptor

/-- R105 FIELD_GET. -/
def execFieldGet (addr byteOff bitOff width inverted : Nat) (s : State) : Out :=
  request (.fieldGet addr byteOff bitOff width inverted) (fieldGetBody addr byteOff bitOff width inverted) s

end Sys2Proof.Machine
end

