-- ==== Sys2Proof/Machine/TriggerPins.lean ====
section
/-! DEFINITION. Trigger pins and collection mode, register TriggerSource (39) (spec/41_trigger_pins.md R110 to R113). -/

namespace Sys2Proof.Machine

/-- R110. -/
def setPinBody (pin enabled : Nat) (s : State) (pc : Nat) : Act :=
  boolArg enabled fun on =>
  selector (Pin.ofCode pin) pin fun p =>
  match pc with
  | 0 => .read 39 1
  | 1 => withBuf s fun buf => .write 39 [putBit (byteAt buf 0) (s.cfg.params.pinBit p) on]
  | _ => .ret .nothing

/-- R110 SET_PIN. -/
def execSetPin (pin enabled : Nat) (s : State) : Out := request (.setPin pin enabled) (setPinBody pin enabled) s

/-- R111. -/
def getPinBody (pin : Nat) (s : State) (pc : Nat) : Act :=
  selector (Pin.ofCode pin) pin fun p =>
  match pc with
  | 0 => .read 39 1
  | _ => withBuf s fun buf => .ret (.bool ((byteAt buf 0).getLsbD (s.cfg.params.pinBit p)))

/-- R111 GET_PIN. -/
def execGetPin (pin : Nat) (s : State) : Out := request (.getPin pin) (getPinBody pin) s

/-- R112. -/
def setCollectionModeBody (mode : Nat) (s : State) (pc : Nat) : Act :=
  selector (CollectionMode.ofCode mode) mode fun m =>
  match pc with
  | 0 => .read 39 1
  | 1 => withBuf s fun buf => .write 39 [setbits (byteAt buf 0) 6 2 ((s.cfg.params.collectCode m).setWidth 8)]
  | _ => .ret .nothing

/-- R112 SET_COLLECTION_MODE. -/
def execSetCollectionMode (mode : Nat) (s : State) : Out :=
  request (.setCollectionMode mode) (setCollectionModeBody mode) s

/-- R113. -/
def getCollectionModeBody (s : State) (pc : Nat) : Act :=
  match pc with
  | 0 => .read 39 1
  | _ => withBuf s fun buf => .ret (decodeCollection s.cfg.params (getbits (byteAt buf 0) 6 2))

/-- R113 GET_COLLECTION_MODE. -/
def execGetCollectionMode (s : State) : Out := request .getCollectionMode getCollectionModeBody s

end Sys2Proof.Machine
end

