-- ==== Sys2Proof/Machine/TriggerSelect.lean ====
section
/-! DEFINITION. The trigger module selector, register TriggerModule (40) bits 2:0, and the edge lock
(spec/44_trigger_module.md R155, R156). -/

namespace Sys2Proof.Machine

/-- R155: the register with the module's code in bits 2:0. -/
def trigModuleWrite (s : State) (m : TriggerModule) : Act :=
  withBuf s fun buf => .write 40 [setbits (byteAt buf 0) 0 3 ((s.cfg.params.trigModCode m).setWidth 8)]

/-- R155. Under `Always` the event comes first; under `OnChange` after the READ, where the module held differs. -/
def setTriggerModuleBody (module : Nat) (s : State) (pc : Nat) : Act :=
  selector (TriggerModule.ofCode module) module fun m =>
  allowed (s.trigModLegal m) [module] <|
  match s.cfg.params.edgeFirePolicy with
  | .always =>
    match pc with
    | 0 => .emit (m != .basic)
    | 1 => .read 40 1
    | 2 => trigModuleWrite s m
    | _ => .ret .nothing
  | .onChange =>
    match pc with
    | 0 => .read 40 1
    | 1 => withBuf s fun buf =>
        if trigModuleOf s.cfg.params (getbits (byteAt buf 0) 0 3) = some m then .jump 2 else .emit (m != .basic)
    | 2 => trigModuleWrite s m
    | _ => .ret .nothing

/-- R155 SET_TRIGGER_MODULE. -/
def execSetTriggerModule (module : Nat) (s : State) : Out :=
  request (.setTriggerModule module) (setTriggerModuleBody module) s

/-- R156. -/
def getTriggerModuleBody (s : State) (pc : Nat) : Act :=
  match pc with
  | 0 => .read 40 1
  | _ => withBuf s fun buf => .ret (decodeTrigModule s.cfg.params (getbits (byteAt buf 0) 0 3))

/-- R156 GET_TRIGGER_MODULE. -/
def execGetTriggerModule (s : State) : Out := request .getTriggerModule getTriggerModuleBody s

end Sys2Proof.Machine
end

