-- ==== Sys2Proof/Machine/Resume.lean ====
section
/-! DEFINITION. The body of the operation in progress (spec/10_state.md R26, R27): what a step does in a state whose phase is
Running. -/

namespace Sys2Proof.Machine

/-- The body of each operation. -/
def bodyOf : Instr → State → Nat → Act
  | .read addr len => readBody addr len
  | .write addr payload => writeBody addr payload
  | .fieldSet addr byteOff bitOff width inverted value => fieldSetBody addr byteOff bitOff width inverted value
  | .fieldGet addr byteOff bitOff width inverted => fieldGetBody addr byteOff bitOff width inverted
  | .setPin pin enabled => setPinBody pin enabled
  | .getPin pin => getPinBody pin
  | .setCollectionMode mode => setCollectionModeBody mode
  | .getCollectionMode => getCollectionModeBody
  | .setIoRoute pinIndex mode => setIoRouteBody pinIndex mode
  | .getIoRoute pinIndex => getIoRouteBody pinIndex
  | .setGpioState gpioPin state => setGpioStateBody gpioPin state
  | .getGpioState gpioPin => getGpioStateBody gpioPin
  | .setPowerState enabled => setPowerStateBody enabled
  | .getPowerState => getPowerStateBody
  | .setGlitchOutEn channel enabled => setGlitchOutEnBody channel enabled
  | .getGlitchOutEn channel => getGlitchOutEnBody channel
  | .setClockSource source => setClockSourceBody source
  | .getClockSource => getClockSourceBody
  | .setTargetClockOut mode => setTargetClockOutBody mode
  | .getTargetClockOut => getTargetClockOutBody
  | .setTrigoutFpa enabled => setTrigoutFpaBody enabled
  | .getTrigoutFpa => getTrigoutFpaBody
  | .setTriggerModule module => setTriggerModuleBody module
  | .getTriggerModule => getTriggerModuleBody
  | .i2cReadByte reg sla => i2cReadByteBody reg sla
  | .i2cWriteByte reg data sla => i2cWriteByteBody reg data sla
  | .pllIsPresent => pllIsPresentBody
  | .pllSetupPll n m bypass highspeed num => pllSetupPllBody n m bypass highspeed num
  | .pllSetupDivider setting clockSourceId divNum => pllSetupDividerBody setting clockSourceId divNum
  | .pllSetupOutput outNum invert enabled divSource slewRate =>
      pllSetupOutputBody outNum invert enabled divSource slewRate
  | .pllSetupClockSource differential useIN0 useIN1 => pllSetupClockSourceBody differential useIN0 useIN1
  | .init variant =>
    match HardwareVariant.ofCode variant with
    | some v => initBody v
    | none => fun _ _ => .raise (.unsupportedVariant variant)

/-- R26: run the operation in progress to its end. Nothing to do where none is. -/
def State.resume (s : State) : Out :=
  match s.phase with
  | .running op _ => drive (bodyOf op) opFuel s
  | _ => .next s

/-- R173: the engine's own step before the next request is taken up. A busy engine has completed by then, or not, as drawn
(log entry 13). -/
def State.engineTurn (s : State) : State :=
  match s.eng with
  | .busy _ =>
    let s1 := { s with engine := s.engine.skip 1 }
    if s.engineDone 0 then s1.complete else s1
  | _ => s

/-- R20, R26: the caller's next request is taken up; the rest wait. -/
def State.taken (s : State) (rest : List (List Byte)) : State := { s.engineTurn with requests := rest }

/-- Put the request whose bits are w before the caller's other requests (log entry 24). -/
def State.withRequest (s : State) (request : List Byte) : State := { s with requests := request :: s.requests }

end Sys2Proof.Machine
end

