-- ==== Sys2Proof/Machine/Dispatch.lean ====
section
/-! DEFINITION. exec: one arm per row of spec/opcode_table.json, each one call of its meaning. -/

namespace Sys2Proof.Machine

def exec (i : Instr) (s : State) : Host.Outcome State Fault Refusal :=
  match i with
  | .read addr len => Sys2Proof.Machine.execRead addr len s
  | .write addr payload => Sys2Proof.Machine.execWrite addr payload s
  | .fieldSet addr byteOff bitOff width inverted value => Sys2Proof.Machine.execFieldSet addr byteOff bitOff width inverted value s
  | .fieldGet addr byteOff bitOff width inverted => Sys2Proof.Machine.execFieldGet addr byteOff bitOff width inverted s
  | .setPin pin enabled => Sys2Proof.Machine.execSetPin pin enabled s
  | .getPin pin => Sys2Proof.Machine.execGetPin pin s
  | .setCollectionMode mode => Sys2Proof.Machine.execSetCollectionMode mode s
  | .getCollectionMode => Sys2Proof.Machine.execGetCollectionMode s
  | .setIoRoute pinIndex mode => Sys2Proof.Machine.execSetIoRoute pinIndex mode s
  | .getIoRoute pinIndex => Sys2Proof.Machine.execGetIoRoute pinIndex s
  | .setGpioState gpioPin state => Sys2Proof.Machine.execSetGpioState gpioPin state s
  | .getGpioState gpioPin => Sys2Proof.Machine.execGetGpioState gpioPin s
  | .setPowerState enabled => Sys2Proof.Machine.execSetPowerState enabled s
  | .getPowerState => Sys2Proof.Machine.execGetPowerState s
  | .setGlitchOutEn channel enabled => Sys2Proof.Machine.execSetGlitchOutEn channel enabled s
  | .getGlitchOutEn channel => Sys2Proof.Machine.execGetGlitchOutEn channel s
  | .setClockSource source => Sys2Proof.Machine.execSetClockSource source s
  | .getClockSource => Sys2Proof.Machine.execGetClockSource s
  | .setTargetClockOut mode => Sys2Proof.Machine.execSetTargetClockOut mode s
  | .getTargetClockOut => Sys2Proof.Machine.execGetTargetClockOut s
  | .setTrigoutFpa enabled => Sys2Proof.Machine.execSetTrigoutFpa enabled s
  | .getTrigoutFpa => Sys2Proof.Machine.execGetTrigoutFpa s
  | .setTriggerModule module => Sys2Proof.Machine.execSetTriggerModule module s
  | .getTriggerModule => Sys2Proof.Machine.execGetTriggerModule s
  | .i2cReadByte reg sla => Sys2Proof.Machine.execI2cReadByte reg sla s
  | .i2cWriteByte reg data sla => Sys2Proof.Machine.execI2cWriteByte reg data sla s
  | .pllIsPresent => Sys2Proof.Machine.execPllIsPresent s
  | .pllSetupPll n m bypass highspeed num => Sys2Proof.Machine.execPllSetupPll n m bypass highspeed num s
  | .pllSetupDivider setting clockSourceId divNum => Sys2Proof.Machine.execPllSetupDivider setting clockSourceId divNum s
  | .pllSetupOutput outNum invert enabled divSource slewRate => Sys2Proof.Machine.execPllSetupOutput outNum invert enabled divSource slewRate s
  | .pllSetupClockSource differential useIN0 useIN1 => Sys2Proof.Machine.execPllSetupClockSource differential useIN0 useIN1 s
  | .init variant => Sys2Proof.Machine.execInit variant s

end Sys2Proof.Machine
end

