-- ==== Sys2Proof/Machine/Step.lean ====
section
/-! DEFINITION. One step of the block: an operation in progress runs to its end; else the caller's next request is decoded and
executed; else, with no request waiting, a busy engine completes (spec/10_state.md R20, R26; 45_i2c_master.md R173). -/

namespace Sys2Proof.Machine

/-- A request that does not decode is refused (R81, R88). -/
def step (s : State) : Host.Outcome State Fault Refusal :=
  match s.phase with
  | .running _ _ => s.resume
  | _ =>
    match s.requests with
    | [] => .next s.complete
    | r :: rest =>
      match decode r with
      | .ok i => exec i (s.taken rest)
      | .error e => .next ((s.taken rest).refuse (.request e))

/-- s with the request whose bits are w as the caller's next (log entry 24). -/
def State.withFetchWord (s : State) (nbits w : Nat) : State := s.withRequest (requestOfWord nbits w)

end Sys2Proof.Machine
end

