-- ==== Sys2Proof/Safety.lean ====
section
/-! DEFINITION. The vocabulary of the claims: the premises of a run (no transport failure, a caller that stays), the states
an operation ends in, what a bit-field write is bit by bit, and the invariant. -/

namespace Sys2Proof.Machine

/-! Premises -/

/-- None of the next n commands fails ("no transport failure"; spec/40_transport_rmw.md R102). -/
def State.linkUp (s : State) (n : Nat) : Prop := ∀ k, k < n → s.linkFails k = false

/-- The caller does not stop at any of its next n chances (spec/45_i2c_master.md R176). -/
def State.callerStays (s : State) (n : Nat) : Prop := ∀ k, k < n → s.callerStops k = false

/-! What the spec names -/

/-- The state with the model's own fields blanked: the five sources of draws (log entry 6), the reason of a refusal (log entry
2), and `buf`, which is "meaningless" between operations (spec/10_state.md R22). -/
def State.specPart (s : State) : State :=
  { s with buf := none, refusal := none, link := ⟨[], 0⟩, caller := ⟨[], 0⟩, engine := ⟨[], 0⟩, noise := ⟨[], 0⟩,
           slave := ⟨[], 0⟩ }

/-- The two states are the same in every piece of state the spec names. -/
def State.agrees (t u : State) : Prop := t.specPart = u.specPart

/-! Configuration registers (spec/20_memory.md R63) -/

/-- R63's table: a command of n bytes at address a is admitted. -/
def InCommandTable (p : Params) (a n : Nat) : Prop :=
  (a = 38 ∧ n = 1) ∨ (a = 39 ∧ n = 1) ∨ (a = 40 ∧ n = 1) ∨ (a = 47 ∧ n = 3) ∨ (a = 48 ∧ n = 1) ∨
    (a = 55 ∧ n = p.ioRouteLen)

/-- The bytes of configuration register a. -/
def State.configRegister (s : State) : Nat → Option (List Byte)
  | 38 => some [s.extClk]
  | 39 => some [s.trigSrc]
  | 40 => some [s.trigMod]
  | 55 => some s.ioRoute
  | _ => none

/-- s with the bytes bs in configuration register a. -/
def State.withConfig (s : State) (a : Nat) (bs : List Byte) : State :=
  match a with
  | 38 => { s with extClk := byteAt bs 0 }
  | 39 => { s with trigSrc := byteAt bs 0 }
  | 40 => { s with trigMod := byteAt bs 0 }
  | 55 => { s with ioRoute := bs }
  | _ => s

/-! How an operation ends (spec/60_exceptions.md R211, R222; spec/10_state.md R27) -/

/-- s after an operation that reports rep and added the entries tr to the command trace: the sequencer is idle. -/
def State.ended (s : State) (rep : Report) (tr : List Traffic) : State :=
  { s with phase := .idle, report := rep, trace := s.trace ++ tr }

/-- s after an operation that returned r. -/
def State.finished (s : State) (r : Result) (tr : List Traffic) : State := s.ended (.ok r) tr

/-- s after an operation that raised e. -/
def State.failed (s : State) (e : OpError) (tr : List Traffic) : State := s.ended (.error e) tr

/-- s after a refused request: the mark is set, nothing is reported (R213, R222). -/
def State.declined (s : State) : State := { s with refused := true, report := .none }

/-- Request i, executed in s, raises e before any command. -/
def RaisesAtOnce (i : Instr) (s : State) (e : OpError) : Prop := ∃ t, exec i s = .next t ∧ t.agrees (s.failed e [])

/-- Request i, executed in s, is refused and does nothing else. -/
def IsRefused (i : Instr) (s : State) : Prop := ∃ t, exec i s = .next t ∧ t.agrees s.declined

/-- Operation i, executed in s, ends with TransportFailure when its first command, a READ of n bytes at a, fails (R102). -/
def FailsWithItsRead (i : Instr) (s : State) (a n : Nat) : Prop :=
  s.linkFails 0 = true → ∃ t, exec i s = .next t ∧ t.agrees (s.failed (.transportFailure a) [.read a n none])

/-- Read-modify-write i of register a, which reads old and writes new, ends with TransportFailure when its WRITE fails; then
each of the register's n bytes is any byte, and nothing else has changed (R102, R103). -/
def FailsWithItsWrite (i : Instr) (s : State) (a n : Nat) (old new : List Byte) : Prop :=
  s.linkFails 0 = false → s.linkFails 1 = true → ∃ t bs, exec i s = .next t ∧ bs.length = n ∧
    t.agrees ((s.withConfig a bs).failed (.transportFailure a) [.read a n (some old), .write a new false])

/-! Bit fields (spec/00_scope.md R10, R11) -/

/-- Byte new is byte old with the w bits from bit lo replaced by the low w bits of f. -/
def FieldReplaced (old : Byte) (lo w : Nat) (f new : Byte) : Prop :=
  ∀ j, j < 8 → new.getLsbD j = if lo ≤ j ∧ j < lo + w then f.getLsbD (j - lo) else old.getLsbD j

/-- Byte new is byte old with bit k set to b. -/
def BitReplaced (old : Byte) (k : Nat) (b : Bool) (new : Byte) : Prop :=
  ∀ j, j < 8 → new.getLsbD j = if j = k then b else old.getLsbD j

/-! The I2C handshake (spec/45_i2c_master.md R185, R186; spec/30_encoding.md R84) -/

/-- R84 `sab`. -/
def slaveByte : Direction → Reg7 → Byte
  | .read, sla => 0x80#8 ||| sla.setWidth 8
  | .write, sla => sla.setWidth 8

/-- R84 `rab`. -/
def registerByte (reg : Reg7) : Byte := 0x80#8 ||| reg.setWidth 8

/-- The setup, strobe and release WRITEs with their waits. -/
def handshake (rw : Direction) (sla reg : Reg7) : List Traffic :=
  [.write 47 [0x00, slaveByte rw sla, registerByte reg] true, .wait,
   .write 47 [0x04, slaveByte rw sla, registerByte reg] true, .wait,
   .write 47 [0x00, slaveByte rw sla, registerByte reg] true, .wait]

/-- s with the engine left Undefined (R176): the latches it leaves are any, and its slave is lawless (log entry 14). -/
def State.engineLost (s : State) (latch : Option ControlWord) (nack : Option Bool) (rxd : Option Byte) : State :=
  { s with ctlLatch := latch, nack := nack, rxd := rxd, eng := .undefined, bus := .lawless }

/-- The control word the release WRITE leaves. -/
def releaseWord (rw : Direction) (sla reg : Reg7) : ControlWord := ⟨0x00, slaveByte rw sla, registerByte reg⟩

/-- How many commands a trace holds; a settle wait is none (R238). -/
def commandCount (tr : List Traffic) : Nat := tr.countP (fun x => x != .wait)

/-- Run the next operation where the last one returned a result; an error, a refusal or an abandonment ends the sequence. -/
def andThen (o : Out) (next : Result → State → Out) : Out :=
  match o with
  | .next t =>
    match t.report with
    | .ok r => next r t
    | _ => .next t
  | o => o

/-- The byte a byte read returned. -/
def byteOf : Result → Byte
  | .byte b => b
  | _ => 0

/-- What PLL_IS_PRESENT reports where its byte read would report rep (R187): present where the low nibble of the byte is 1, absent
on a transport failure, and on a slave that does not acknowledge what PRESENT_ON_NACK says. -/
def probeReport (p : Params) (rep : Report) : Report :=
  match rep with
  | .ok r => .ok (.bool ((byteOf r).toNat % 16 == 1))
  | .error (.transportFailure _) => .ok (.bool false)
  | .error (.noAcknowledge sla reg) =>
    match p.presentOnNack with
    | .absent => .ok (.bool false)
    | .propagate => .error (.noAcknowledge sla reg)
  | .error e => .error e
  | .none => .none

/-! Sequences of requests -/

/-- The requests one after the other, each executed where the last left off. -/
def execAll : List Instr → State → Out
  | [], s => .next s
  | i :: rest, s =>
    match exec i s with
    | .next t => execAll rest t
    | o => o

/-! The invariant -/

/-- What holds of every state a run reaches: IORoute keeps its width (spec/20_memory.md R63), a well-behaved slave's register
file is in canonical form, and a variant with its own profile is set from construction on (spec/10_state.md R21). -/
structure State.Inv (s : State) : Prop where
  routeWidth : s.ioRoute.length = s.cfg.params.ioRouteLen
  slaveForm : ∀ a f, s.bus = .wellBehaved a f → Memory.wf f = true
  profile : s.phase = .unconstructed ∨ ∃ v, s.variant = some v ∧ s.caps = some (s.cfg.params.capsOf v)

/-- No operation is in progress. -/
def State.AtRest (s : State) : Prop := ∀ op pc, s.phase ≠ .running op pc

end Sys2Proof.Machine
end

