-- ==== Sys2Proof/Certificates/Slice0/Obligations.lean ====
section
/-! DEFINITION. The statements for the provers. Each speaks of the state a request leaves through `State.agrees`: equal in
every piece of state the spec names, so that each says what an operation changes and that it changes nothing else. -/

open Sys2Proof Sys2Proof.Machine

/-! Encoding -/

/-- Every well-formed instruction, with every operand at every value the request layout admits, decodes from its encoding.
The layout of the bytes after the first is the model's own (log entry 3). -/
def Obligations.DecodeOfEncode : Prop :=
  ∀ i : Instr, i.wellFormed = true → decode (encode i) = .ok i

/-- Some requests written out byte by byte decode to the instructions they stand for (layout: log entries 3, 4). -/
def Obligations.WordsDecode : Prop :=
  decode [0x80, 0x27, 0x01, 0x00] = .ok (.read 39 1) ∧
  decode [0xC0, 0x28, 0x09] = .ok (.write 40 [0x09]) ∧
  decode [0x01, 0x27, 0x00, 0x00, 0x00, 0x06, 0x00, 0x02, 0x00, 0x00, 0x00, 0x03, 0x00] = .ok (.fieldSet 39 0 6 2 0 3) ∧
  decode [0x10, 0x03, 0x00, 0x01, 0x00] = .ok (.setPin 3 1) ∧
  decode [0x22, 0x05, 0x00, 0x01, 0x00] = .ok (.setGpioState 5 1) ∧
  decode [0x30, 0x03, 0x00] = .ok (.setClockSource 3) ∧
  decode [0x41] = .ok .getTriggerModule ∧
  decode [0x50, 0x0C, 0x00] = .ok (.i2cReadByte 0x0C 0x69) ∧
  decode [0x51, 0x0C, 0x00, 0x5A, 0x50, 0x00] = .ok (.i2cWriteByte 0x0C 0x5A 0x50) ∧
  decode [0x60, 0xF4, 0x01, 0x19, 0x00, 0x00, 0x00, 0x01, 0x00] = .ok (.pllSetupPll 500 25 0 1 1) ∧
  decode [0x70, 0x02, 0x00] = .ok (.init 2)

/-- R81, R88: a first byte that is neither of the two opcodes nor one of the thirty selectors is reserved, and the request is
refused: the mark is set and nothing else happens. (One first byte for opcodes and selectors: log entry 3.) -/
def Obligations.ReservedFirstBytesAreRefused : Prop :=
  ∀ (s : State) (op : Byte) (rest : List Byte) (more : List (List Byte)), s.AtRest → s.eng = .idle →
    s.requests = (op :: rest) :: more →
    op.toNat ∉ [0x80, 0xC0, 0x01, 0x02, 0x10, 0x11, 0x12, 0x13, 0x20, 0x21, 0x22, 0x23, 0x24, 0x25, 0x26, 0x27, 0x30, 0x31,
      0x32, 0x33, 0x34, 0x35, 0x40, 0x41, 0x50, 0x51, 0x52, 0x60, 0x61, 0x62, 0x63, 0x70] →
    decode (op :: rest) = .error (.reserved op) ∧
      ∃ t, step s = .next t ∧ t.agrees (State.declined { s with requests := more })

/-! The step -/

/-- A step takes up the caller's next request and runs the instruction it decodes to. An engine that is not busy is left as it
is; a busy one has completed by then or not, as drawn (log entry 13). -/
def Obligations.StepRunsDecodedRequest : Prop :=
  ∀ (s : State) (r : List Byte) (rest : List (List Byte)) (i : Instr), s.AtRest → s.requests = r :: rest →
    decode r = .ok i →
    ((∀ txn, s.eng ≠ .busy txn) → step s = exec i { s with requests := rest }) ∧
    (∀ txn, s.eng = .busy txn →
      let s1 := { s with engine := s.engine.skip 1 }
      step s = exec i { (if s.engineDone 0 then s1.complete else s1) with requests := rest })

/-- The step that follows `withFetchWord` runs the instruction `decodeTableWord` reads from the same bits, the engine idle
(how a program comes to run: log entry 24). -/
def Obligations.StepRunsFetchedWord : Prop :=
  ∀ (s : State) (nbits w : Nat) (i : Instr), s.AtRest → s.eng = .idle → decodeTableWord nbits w = some i →
    step (s.withFetchWord nbits w) = exec i s

/-- R26: while an operation is in progress no request is accepted: a step leaves the caller's requests waiting, and a request
given to the sequencer changes nothing. -/
def Obligations.RunningBlocksRequests : Prop :=
  ∀ (s : State) (op : Instr) (pc : Nat), s.phase = .running op pc →
    (∀ i, exec i s = .next s) ∧ (∀ t, step s = .next t → t.requests = s.requests)

/-- R173, with the engine's completion taken where no request waits (log entry 29): a write transaction records the slave's
acknowledge; a read transaction also the byte, where it was acknowledged; the engine is idle. -/
def Obligations.EngineCompletes : Prop :=
  ∀ (s : State) (txn : Txn), s.AtRest → s.requests = [] → s.eng = .busy txn →
    (txn.rw = .write → step s = .next { (s.slaveWrite txn.sla txn.reg txn.data).2 with
      nack := some (!(s.slaveWrite txn.sla txn.reg txn.data).1), eng := .idle }) ∧
    (txn.rw = .read → step s = .next { (s.slaveRead txn.sla txn.reg).2 with
      nack := some (!(s.slaveRead txn.sla txn.reg).1.ack),
      rxd := if (s.slaveRead txn.sla txn.reg).1.ack then some (s.slaveRead txn.sla txn.reg).1.data else none,
      eng := .idle })

/-! Reset and construction -/

/-- R230: what reset leaves, where the spec gives a value. -/
def Obligations.ResetState : Prop :=
  State.reset.eng = .idle ∧ State.reset.phase = .unconstructed ∧ State.reset.variant = none ∧ State.reset.caps = none ∧
  State.reset.buf = none ∧ State.reset.rxd = none ∧ State.reset.refused = false ∧ State.reset.events = []

/-- R25: before construction every operation but INIT is refused (for the two transport commands see log entry 17), and the
block stays Unconstructed until an INIT ends without an error. -/
def Obligations.UnconstructedUntilInit : Prop :=
  ∀ (s : State) (i : Instr), s.phase = .unconstructed →
    ((∀ v, i ≠ .init v) → (∀ a n, i ≠ .read a n) → (∀ a v, i ≠ .write a v) → IsRefused i s) ∧
    (∀ t, exec i s = .next t → t.phase ≠ .unconstructed → ∃ v, i = .init v ∧ t.report = .ok .nothing) ∧
    (∀ t v, i = .init v → exec i s = .next t → t.report ≠ .ok .nothing → t.phase = .unconstructed)

/-- R233 INIT: an unknown variant raises UnsupportedVariant with no command; a known one is constructed with its profile, at
once or, for the quirk variant, after SET_CLOCK_SOURCE TargetIOIn has written ExternalClock bits 2:0; a failure of that leaves
the block Unconstructed; a constructed block refuses INIT. -/
def Obligations.InitConstructs : Prop :=
  ∀ s : State,
    (s.phase = .idle → ∀ v, IsRefused (.init v) s) ∧
    (s.phase = .unconstructed →
      (∀ c, 2 < c → ∃ t, exec (.init c) s = .next t ∧ t.agrees { s with report := .error (.unsupportedVariant c) }) ∧
      ∀ c v, HardwareVariant.ofCode c = some v →
        let built := { s with variant := some v, caps := some (s.cfg.params.capsOf v) }
        (v ≠ s.cfg.params.quirkVariant → ∃ t, exec (.init c) s = .next t ∧ t.agrees (built.finished .nothing [])) ∧
        (v = s.cfg.params.quirkVariant → ∃ b, FieldReplaced s.extClk 0 3 ((s.cfg.params.clkSrcCode .targetIOIn).setWidth 8) b ∧
          (s.linkUp 2 → ∃ t, exec (.init c) s = .next t ∧
            t.agrees (State.finished { built with extClk := b } .nothing
              [.read 38 1 (some [s.extClk]), .write 38 [b] true])) ∧
          (s.linkFails 0 = true → ∃ t, exec (.init c) s = .next t ∧ t.phase = .unconstructed ∧ t.extClk = s.extClk ∧
            t.report = .error (.transportFailure 38)) ∧
          (s.linkFails 0 = false → s.linkFails 1 = true → ∃ t, exec (.init c) s = .next t ∧ t.phase = .unconstructed ∧
            t.report = .error (.transportFailure 38))))

/-- R23, R24: whatever the open parameters, a block constructed for Lite has no front-panel pins, so it rejects both
front-panel clock sources and the front-panel trigger output with InvalidParameter and no command. -/
def Obligations.LiteRejectsFrontPanel : Prop :=
  ∀ s : State, s.phase = .idle → s.variant = some .lite → s.caps = some (s.cfg.params.capsOf .lite) →
    RaisesAtOnce (.setClockSource 0) s (.invalidParameter [0]) ∧ RaisesAtOnce (.setClockSource 1) s (.invalidParameter [1]) ∧
    (∀ enabled, enabled ≤ 1 → RaisesAtOnce (.setTrigoutFpa enabled) s (.invalidParameter [])) ∧
    RaisesAtOnce .getTrigoutFpa s (.invalidParameter [])

/-! Transport commands -/

/-- R100, R174: a READ of a configuration register returns its bytes; of I2CStatus a word whose bit 0 is NACK where the flag
is defined and the engine idle; of I2CData the receive byte where it is defined and the engine idle; it changes nothing but
the command trace. A READ outside R63's table is refused, and a READ that fails changes nothing. -/
def Obligations.ReadReturnsTheRegister : Prop :=
  ∀ (s : State) (a n : Nat), s.phase = .idle →
    (s.linkFails 0 = false →
      (InCommandTable s.cfg.params a n → ∀ bs, s.configRegister a = some bs → ∃ t, exec (.read a n) s = .next t ∧
        t.agrees (s.finished (.bytes bs) [.read a n (some bs)])) ∧
      (a = 47 → n = 3 → ∃ st0 st1 st2 t, exec (.read a n) s = .next t ∧
        (∀ b, s.nack = some b → s.eng = .idle → st0.getLsbD 0 = b) ∧
        t.agrees (s.finished (.bytes [st0, st1, st2]) [.read a n (some [st0, st1, st2])])) ∧
      (a = 48 → n = 1 → ∃ d t, exec (.read a n) s = .next t ∧ (∀ b, s.rxd = some b → s.eng = .idle → d = b) ∧
        t.agrees (s.finished (.bytes [d]) [.read a n (some [d])]))) ∧
    (InCommandTable s.cfg.params a n → FailsWithItsRead (.read a n) s a n) ∧
    (¬InCommandTable s.cfg.params a n → IsRefused (.read a n) s)

/-- R101 but for I2CStatus: a WRITE stores its payload in its register, all bytes of it; a WRITE of I2CData stores the
transmit byte and leaves an engine that is not idle Undefined (R171; what that leaves of the slave: log entry 14). A WRITE
outside R63's table is refused. -/
def Obligations.WriteStoresItsPayload : Prop :=
  ∀ (s : State) (a : Nat) (v : List Byte), s.phase = .idle →
    (s.linkFails 0 = false →
      (InCommandTable s.cfg.params a v.length → (s.configRegister a).isSome = true → ∃ t, exec (.write a v) s = .next t ∧
        t.agrees ((s.withConfig a v).finished .nothing [.write a v true])) ∧
      (∀ d, a = 48 → v = [d] → ∃ t, exec (.write a v) s = .next t ∧
        (s.eng = .idle → t.agrees (State.finished { s with txd := d } .nothing [.write a v true])) ∧
        (s.eng ≠ .idle → t.agrees (State.finished { s with txd := d, eng := .undefined, bus := .lawless } .nothing
          [.write a v true])))) ∧
    (¬InCommandTable s.cfg.params a v.length → IsRefused (.write a v) s)

/-- R172, R171: a completed WRITE of a control word to I2CStatus. Only a rising edge of GO starts a transaction, with the
direction, slave and register of the word and the transmit byte; any control WRITE to a busy engine leaves it Undefined.
(That a strobe leaves the receive byte undefined is R174's sentence: log entry 11; the slave of an Undefined engine: log entry
14.) -/
def Obligations.ControlWriteStartsTransactions : Prop :=
  ∀ (s : State) (c d e : Byte), s.phase = .idle → s.linkFails 0 = false → (c = 0x00 ∨ c = 0x04) → e.getLsbD 7 = true →
    let after := fun (u : State) => ∃ t, exec (.write 47 [c, d, e]) s = .next t ∧
      t.agrees (State.finished { u with ctlLatch := some ⟨c, d, e⟩ } .nothing [.write 47 [c, d, e] true])
    let started := { s with
      rxd := none
      eng := .busy ⟨if d.getLsbD 7 then .read else .write, d.setWidth 7, e.setWidth 7, s.txd⟩ }
    (s.eng = .idle → c = 0x00 → after s) ∧
    (s.eng = .idle → c = 0x04 → ∀ w, s.ctlLatch = some w → w.ctl.getLsbD 2 = false → after started) ∧
    (s.eng = .idle → c = 0x04 → ∀ w, s.ctlLatch = some w → w.ctl.getLsbD 2 = true → after s) ∧
    (s.eng = .idle → c = 0x04 → s.ctlLatch = none → after started ∨ after s) ∧
    (s.eng ≠ .idle → after { s with eng := .undefined, bus := .lawless })

/-- R85: a control word whose control byte is neither 0x00 nor 0x04, or whose REGV bit is 0, is refused. -/
def Obligations.ReservedControlWordsAreRefused : Prop :=
  ∀ (s : State) (c d e : Byte), s.phase = .idle → ((c ≠ 0x00 ∧ c ≠ 0x04) ∨ e.getLsbD 7 = false) →
    IsRefused (.write 47 [c, d, e]) s

/-- R102: a command that fails raises TransportFailure, with no retry. A failed READ changes nothing; after a failed WRITE each
byte of its register is any byte, and no other register has changed; a failed WRITE to 48 leaves `txd` any byte, a failed WRITE
to 47 the control latch any word and the engine Undefined. That a failed WRITE to 48 leaves a Busy engine as it was, and not
Undefined, is log entry 18 (DEDUCED: R171's "any WRITE" is read as any completed WRITE). -/
def Obligations.FailedCommandsGarbleOnlyTheirRegister : Prop :=
  ∀ (s : State) (a : Nat), s.phase = .idle → s.linkFails 0 = true →
    (∀ n, InCommandTable s.cfg.params a n → ∃ t, exec (.read a n) s = .next t ∧
      t.agrees (s.failed (.transportFailure a) [.read a n none])) ∧
    (∀ v : List Byte, InCommandTable s.cfg.params a v.length →
      ((s.configRegister a).isSome = true → ∃ t bs, exec (.write a v) s = .next t ∧ bs.length = v.length ∧
        t.agrees ((s.withConfig a bs).failed (.transportFailure a) [.write a v false])) ∧
      (a = 48 → (∀ txn, s.eng ≠ .busy txn) → ∃ t b, exec (.write a v) s = .next t ∧
        t.agrees (State.failed { s with txd := b } (.transportFailure a) [.write a v false])) ∧
      (∀ txn, a = 48 → s.eng = .busy txn → ∃ t b, exec (.write a v) s = .next t ∧ t.eng = .busy txn ∧
        t.agrees (State.failed { s with txd := b } (.transportFailure a) [.write a v false])) ∧
      (∀ c d e, a = 47 → v = [c, d, e] → (c = 0x00 ∨ c = 0x04) → e.getLsbD 7 = true →
        ∃ t w b, exec (.write a v) s = .next t ∧
          t.agrees (State.failed { s with ctlLatch := some w, eng := .undefined, bus := b } (.transportFailure a)
            [.write a v false])))

/-! Bit fields -/

/-- R11: the laws of the masking primitives. -/
def Obligations.MaskingLaws : Prop :=
  ∀ (v f : Byte) (lo w : Nat), lo + w ≤ 8 →
    (f.toNat < 2 ^ w → getbits (setbits v lo w f) lo w = f) ∧
    (∀ j, j < 8 → (j < lo ∨ lo + w ≤ j) → (setbits v lo w f).getLsbD j = v.getLsbD j) ∧
    setbits v lo w (getbits v lo w) = v ∧
    (∀ j, j < w → (setbits v lo w f).getLsbD (lo + j) = f.getLsbD j)

/-- R104 FIELD_SET: with a valid descriptor and a value that fits, one READ of the register and one WRITE of it with the
field's bits replaced by the value (complemented where the descriptor is inverted) and every other bit as read; a value that
does not fit raises InvalidParameter with no command; an invalid descriptor is refused, whatever the value. -/
def Obligations.FieldSetReplacesTheField : Prop :=
  ∀ (s : State) (addr byteOff bitOff width value : Nat) (inverted : Bool), s.phase = .idle →
    s.ioRoute.length = s.cfg.params.ioRouteLen →
    let i := Instr.fieldSet addr byteOff bitOff width inverted.toNat value
    (∀ bs, s.configRegister addr = some bs → byteOff < bs.length → width ≠ 0 → bitOff + width ≤ 8 →
      (value < 2 ^ width → ∃ new,
        FieldReplaced (byteAt bs byteOff) bitOff width
          (if inverted then BitVec.ofNat 8 value ^^^ BitVec.ofNat 8 (2 ^ width - 1) else BitVec.ofNat 8 value) new ∧
        (s.linkUp 2 → ∃ t, exec i s = .next t ∧
          t.agrees ((s.withConfig addr (bs.set byteOff new)).finished .nothing
            [.read addr bs.length (some bs), .write addr (bs.set byteOff new) true])) ∧
        FailsWithItsRead i s addr bs.length ∧ FailsWithItsWrite i s addr bs.length bs (bs.set byteOff new)) ∧
      (2 ^ width ≤ value → RaisesAtOnce i s (.invalidParameter [value]))) ∧
    ((∀ bs, s.configRegister addr = some bs → bs.length ≤ byteOff ∨ width = 0 ∨ 8 < bitOff + width) → IsRefused i s)

/-- R105 FIELD_GET: with a valid descriptor, one READ of the register, and the field's bits (complemented where the descriptor
is inverted) as the result; an invalid descriptor is refused. -/
def Obligations.FieldGetReturnsTheField : Prop :=
  ∀ (s : State) (addr byteOff bitOff width : Nat) (inverted : Bool), s.phase = .idle →
    s.ioRoute.length = s.cfg.params.ioRouteLen →
    let i := Instr.fieldGet addr byteOff bitOff width inverted.toNat
    (∀ bs, s.configRegister addr = some bs → byteOff < bs.length → width ≠ 0 → bitOff + width ≤ 8 →
      (s.linkFails 0 = false → ∃ f t,
        (∀ j, j < 8 → f.getLsbD j = (decide (j < width) && ((byteAt bs byteOff).getLsbD (bitOff + j) != inverted))) ∧
        exec i s = .next t ∧ t.agrees (s.finished (.field f) [.read addr bs.length (some bs)])) ∧
      FailsWithItsRead i s addr bs.length) ∧
    ((∀ bs, s.configRegister addr = some bs → bs.length ≤ byteOff ∨ width = 0 ∨ 8 < bitOff + width) → IsRefused i s)

/-- R106: after FIELD_SET of value, FIELD_GET of the same field returns it, and every bit of the register outside the field is
as before; and where a FIELD_SET of a disjoint field has come between, both fields hold their values. -/
def Obligations.FieldRoundTrip : Prop :=
  ∀ (s : State) (addr b1 o1 w1 v1 : Nat) (i1 : Bool) (bs : List Byte), s.phase = .idle →
    s.ioRoute.length = s.cfg.params.ioRouteLen → s.configRegister addr = some bs →
    b1 < bs.length → w1 ≠ 0 → o1 + w1 ≤ 8 → v1 < 2 ^ w1 →
    (s.linkUp 3 → ∃ t new, execAll [.fieldSet addr b1 o1 w1 i1.toNat v1, .fieldGet addr b1 o1 w1 i1.toNat] s = .next t ∧
      t.report = .ok (.field (BitVec.ofNat 8 v1)) ∧ t.configRegister addr = some new ∧ new.length = bs.length ∧
      ∀ k j, j < 8 → ¬(k = b1 ∧ o1 ≤ j ∧ j < o1 + w1) → (byteAt new k).getLsbD j = (byteAt bs k).getLsbD j) ∧
    (∀ (b2 o2 w2 v2 : Nat) (i2 : Bool), s.linkUp 6 → b2 < bs.length → w2 ≠ 0 → o2 + w2 ≤ 8 → v2 < 2 ^ w2 →
      (b1 ≠ b2 ∨ o1 + w1 ≤ o2 ∨ o2 + w2 ≤ o1) →
      ∃ t, execAll [.fieldSet addr b1 o1 w1 i1.toNat v1, .fieldSet addr b2 o2 w2 i2.toNat v2,
          .fieldGet addr b1 o1 w1 i1.toNat] s = .next t ∧ t.report = .ok (.field (BitVec.ofNat 8 v1)) ∧
        ∃ u, exec (.fieldGet addr b2 o2 w2 i2.toNat) t = .next u ∧ u.report = .ok (.field (BitVec.ofNat 8 v2)))

/-- R90: an enumeration argument outside its range raises InvalidChannel with no command, but for INIT's variant, which raises
UnsupportedVariant; a boolean argument other than 0 and 1 is refused. -/
def Obligations.ArgumentsOutsideTheirRange : Prop :=
  ∀ (s : State) (x : Nat),
    (s.phase = .idle → 1 < x →
      (∀ a bo bi w v, IsRefused (.fieldSet a bo bi w x v) s) ∧ (∀ a bo bi w, IsRefused (.fieldGet a bo bi w x) s) ∧
      (∀ p, IsRefused (.setPin p x) s) ∧ IsRefused (.setPowerState x) s ∧ (∀ c, IsRefused (.setGlitchOutEn c x) s) ∧
      IsRefused (.setTrigoutFpa x) s ∧ (∀ n m h k, IsRefused (.pllSetupPll n m x h k) s) ∧
      (∀ n m b k, b ≤ 1 → IsRefused (.pllSetupPll n m b x k) s) ∧
      (∀ o e d r, IsRefused (.pllSetupOutput o x e d r) s) ∧ (∀ o i d r, i ≤ 1 → IsRefused (.pllSetupOutput o i x d r) s) ∧
      (∀ b c, IsRefused (.pllSetupClockSource x b c) s) ∧ (∀ a c, a ≤ 1 → IsRefused (.pllSetupClockSource a x c) s) ∧
      (∀ a b, a ≤ 1 → b ≤ 1 → IsRefused (.pllSetupClockSource a b x) s)) ∧
    (s.phase = .idle →
      (5 < x → (∀ e, e ≤ 1 → RaisesAtOnce (.setPin x e) s (.invalidChannel x)) ∧ RaisesAtOnce (.getPin x) s (.invalidChannel x)) ∧
      (2 < x → RaisesAtOnce (.setCollectionMode x) s (.invalidChannel x)) ∧
      (x = 0 ∨ 4 < x → (∀ m, RaisesAtOnce (.setIoRoute x m) s (.invalidChannel x)) ∧
        RaisesAtOnce (.getIoRoute x) s (.invalidChannel x)) ∧
      (7 < x → ∀ i, 1 ≤ i → i ≤ 4 → RaisesAtOnce (.setIoRoute i x) s (.invalidChannel x)) ∧
      (6 < x → (∀ st, RaisesAtOnce (.setGpioState x st) s (.invalidChannel x)) ∧
        RaisesAtOnce (.getGpioState x) s (.invalidChannel x)) ∧
      (2 < x → ∀ g, g ≤ 6 → RaisesAtOnce (.setGpioState g x) s (.invalidChannel x)) ∧
      (1 < x → (∀ e, e ≤ 1 → RaisesAtOnce (.setGlitchOutEn x e) s (.invalidChannel x)) ∧
        RaisesAtOnce (.getGlitchOutEn x) s (.invalidChannel x)) ∧
      (4 < x → RaisesAtOnce (.setClockSource x) s (.invalidChannel x)) ∧
      (2 < x → RaisesAtOnce (.setTargetClockOut x) s (.invalidChannel x)) ∧
      (3 < x → RaisesAtOnce (.setTriggerModule x) s (.invalidChannel x))) ∧
    (s.phase = .unconstructed → 2 < x →
      ∃ t, exec (.init x) s = .next t ∧ t.agrees { s with report := .error (.unsupportedVariant x) })

/-! TriggerSource (39) -/

/-- R110 SET_PIN: reads TriggerSource and writes it back with the pin's bit set or cleared, every other bit as read. -/
def Obligations.SetPinWritesItsBit : Prop :=
  ∀ (s : State) (pin : Nat) (on : Bool), s.phase = .idle →
    (∀ p, Pin.ofCode pin = some p → ∃ b, BitReplaced s.trigSrc (s.cfg.params.pinBit p) on b ∧
      (s.linkUp 2 → ∃ t, exec (.setPin pin on.toNat) s = .next t ∧
        t.agrees (State.finished { s with trigSrc := b } .nothing
          [.read 39 1 (some [s.trigSrc]), .write 39 [b] true])) ∧
      FailsWithItsRead (.setPin pin on.toNat) s 39 1 ∧ FailsWithItsWrite (.setPin pin on.toNat) s 39 1 [s.trigSrc] [b]) ∧
    (5 < pin → RaisesAtOnce (.setPin pin on.toNat) s (.invalidChannel pin))

/-- R111 GET_PIN: one READ of TriggerSource, and the pin's bit. -/
def Obligations.GetPinReturnsItsBit : Prop :=
  ∀ (s : State) (pin : Nat), s.phase = .idle →
    (∀ p, Pin.ofCode pin = some p →
      (s.linkFails 0 = false → ∃ t, exec (.getPin pin) s = .next t ∧
        t.agrees (s.finished (.bool (s.trigSrc.getLsbD (s.cfg.params.pinBit p))) [.read 39 1 (some [s.trigSrc])])) ∧
      FailsWithItsRead (.getPin pin) s 39 1) ∧
    (5 < pin → RaisesAtOnce (.getPin pin) s (.invalidChannel pin))

/-- R112 SET_COLLECTION_MODE: bits 7:6 of TriggerSource take the mode's code, the six pin bits are written back as read. -/
def Obligations.SetCollectionModeWritesBits7To6 : Prop :=
  ∀ (s : State) (mode : Nat), s.phase = .idle →
    (∀ m, CollectionMode.ofCode mode = some m → ∃ b,
      FieldReplaced s.trigSrc 6 2 ((s.cfg.params.collectCode m).setWidth 8) b ∧
      (s.linkUp 2 → ∃ t, exec (.setCollectionMode mode) s = .next t ∧
        t.agrees (State.finished { s with trigSrc := b } .nothing
          [.read 39 1 (some [s.trigSrc]), .write 39 [b] true])) ∧
      FailsWithItsRead (.setCollectionMode mode) s 39 1 ∧
      FailsWithItsWrite (.setCollectionMode mode) s 39 1 [s.trigSrc] [b]) ∧
    (2 < mode → RaisesAtOnce (.setCollectionMode mode) s (.invalidChannel mode))

/-- R113 GET_COLLECTION_MODE, R29: the mode whose code bits 7:6 hold, or Unrecognised with their value. -/
def Obligations.GetCollectionModeDecodesBits7To6 : Prop :=
  ∀ s : State, s.phase = .idle →
    (s.linkFails 0 = false →
      (∀ m, (∀ j, j < 2 → (s.cfg.params.collectCode m).getLsbD j = s.trigSrc.getLsbD (6 + j)) →
        ∃ t, exec .getCollectionMode s = .next t ∧
          t.agrees (s.finished (.collectionMode m) [.read 39 1 (some [s.trigSrc])])) ∧
      ((∀ m, ∃ j, j < 2 ∧ (s.cfg.params.collectCode m).getLsbD j ≠ s.trigSrc.getLsbD (6 + j)) →
        ∃ t, exec .getCollectionMode s = .next t ∧
          t.agrees (s.finished (.unrecognised (s.trigSrc.toNat / 64)) [.read 39 1 (some [s.trigSrc])]))) ∧
    FailsWithItsRead .getCollectionMode s 39 1

/-- R114: after any sequence of SET_PIN requests, GET_PIN of pin q answers what the last request for q set, or, where there was
none, what the bit held before: requests for other pins never change it; and SET_COLLECTION_MODE m followed by
GET_COLLECTION_MODE returns m and leaves the six pin bits unchanged. -/
def Obligations.PinsAndModeAreIndependent : Prop :=
  (∀ (s : State) (sets : List (Nat × Bool)) (q : Nat) (p : Pin), s.phase = .idle → s.linkUp (2 * sets.length + 1) →
    Pin.ofCode q = some p → (∀ x ∈ sets, x.1 < 6) →
    ∃ t, execAll (sets.map (fun x => .setPin x.1 x.2.toNat) ++ [.getPin q]) s = .next t ∧ t.report = .ok (.bool
      (sets.foldl (fun b x => if x.1 = q then x.2 else b) (s.trigSrc.getLsbD (s.cfg.params.pinBit p))))) ∧
  ∀ (s : State) (mode : Nat) (m : CollectionMode), s.phase = .idle → s.linkUp 3 → CollectionMode.ofCode mode = some m →
    ∃ t, execAll [.setCollectionMode mode, .getCollectionMode] s = .next t ∧ t.report = .ok (.collectionMode m) ∧
      ∀ j, j < 6 → t.trigSrc.getLsbD j = s.trigSrc.getLsbD j

/-! IORoute (55) -/

/-- R120 SET_IOROUTE: the route byte of the pin takes the mode's code, every other byte is written back as read; a mode that is
not legal for the pin raises InvalidParameter with no command. -/
def Obligations.SetIoRouteReplacesOneByte : Prop :=
  ∀ (s : State) (pinIndex mode : Nat), s.phase = .idle → s.ioRoute.length = s.cfg.params.ioRouteLen →
    (∀ p m, TargetPin.ofIndex pinIndex = some p → RouteMode.ofCode mode = some m →
      (m ∈ s.cfg.params.legalRoute p →
        let new := s.ioRoute.set (pinIndex - 1) (s.cfg.params.routeCode m)
        (s.linkUp 2 → ∃ t, exec (.setIoRoute pinIndex mode) s = .next t ∧
          t.agrees (State.finished { s with ioRoute := new } .nothing
            [.read 55 s.ioRoute.length (some s.ioRoute), .write 55 new true])) ∧
        FailsWithItsRead (.setIoRoute pinIndex mode) s 55 s.ioRoute.length ∧
        FailsWithItsWrite (.setIoRoute pinIndex mode) s 55 s.ioRoute.length s.ioRoute new) ∧
      (m ∉ s.cfg.params.legalRoute p →
        RaisesAtOnce (.setIoRoute pinIndex mode) s (.invalidParameter [pinIndex, mode]))) ∧
    (pinIndex = 0 ∨ 4 < pinIndex → RaisesAtOnce (.setIoRoute pinIndex mode) s (.invalidChannel pinIndex)) ∧
    (1 ≤ pinIndex → pinIndex ≤ 4 → 7 < mode → RaisesAtOnce (.setIoRoute pinIndex mode) s (.invalidChannel mode))

/-- R121 GET_IOROUTE: one READ of IORoute, and the pin's route byte verbatim. -/
def Obligations.GetIoRouteReturnsTheByte : Prop :=
  ∀ (s : State) (pinIndex : Nat), s.phase = .idle → s.ioRoute.length = s.cfg.params.ioRouteLen →
    (1 ≤ pinIndex → pinIndex ≤ 4 →
      (s.linkFails 0 = false → ∃ t, exec (.getIoRoute pinIndex) s = .next t ∧
        t.agrees (s.finished (.byte (byteAt s.ioRoute (pinIndex - 1)))
          [.read 55 s.ioRoute.length (some s.ioRoute)])) ∧
      FailsWithItsRead (.getIoRoute pinIndex) s 55 s.ioRoute.length) ∧
    (pinIndex = 0 ∨ 4 < pinIndex → RaisesAtOnce (.getIoRoute pinIndex) s (.invalidChannel pinIndex))

/-- R122 SET_GPIO_STATE of a regular pin: where its route byte has the GPIO-enabled bit set, the GPIO-output bit of that byte
takes the state and everything else is written back as read; where it is clear, PinModeMismatch after the READ and no WRITE;
Disabled raises InvalidParameter with no command; a pin or state code out of range InvalidChannel. -/
def Obligations.SetGpioOfARegularPin : Prop :=
  ∀ (s : State) (i state : Nat) (b : Byte), s.phase = .idle → s.ioRoute.length = s.cfg.params.ioRouteLen → i < 4 →
    s.ioRoute[i]? = some b →
    (state < 2 → b.getLsbD s.cfg.params.gpioEnBit = true → ∃ c, BitReplaced b s.cfg.params.gpioOutBit (state == 1) c ∧
      (s.linkUp 2 → ∃ t, exec (.setGpioState i state) s = .next t ∧
        t.agrees (State.finished { s with ioRoute := s.ioRoute.set i c } .nothing
          [.read 55 s.ioRoute.length (some s.ioRoute), .write 55 (s.ioRoute.set i c) true])) ∧
      FailsWithItsWrite (.setGpioState i state) s 55 s.ioRoute.length s.ioRoute (s.ioRoute.set i c)) ∧
    (state < 2 → b.getLsbD s.cfg.params.gpioEnBit = false → s.linkFails 0 = false →
      ∃ t, exec (.setGpioState i state) s = .next t ∧
        t.agrees (s.failed (.pinModeMismatch i) [.read 55 s.ioRoute.length (some s.ioRoute)])) ∧
    (state < 2 → FailsWithItsRead (.setGpioState i state) s 55 s.ioRoute.length) ∧
    (state = 2 → RaisesAtOnce (.setGpioState i state) s (.invalidParameter [i, state])) ∧
    (2 < state → RaisesAtOnce (.setGpioState i state) s (.invalidChannel state)) ∧
    (∀ g, 6 < g → RaisesAtOnce (.setGpioState g state) s (.invalidChannel g))

/-- R123 SET_GPIO_STATE of special pin k (nRST 0, PDID 1, PDIC 2): bit 2k of byte 6 is set for Low and High, and bit 2k+1 is
set for High and cleared for Low; Disabled clears bit 2k only; everything else is written back as read. -/
def Obligations.SetGpioOfASpecialPin : Prop :=
  ∀ (s : State) (k state : Nat) (b : Byte), s.phase = .idle → s.ioRoute.length = s.cfg.params.ioRouteLen → k < 3 →
    s.ioRoute[6]? = some b →
    (state < 3 → ∃ c : Byte,
      (∀ j, j < 8 → c.getLsbD j =
        if j = 2 * k then state != 2 else if j = 2 * k + 1 ∧ state ≠ 2 then state == 1 else b.getLsbD j) ∧
      (s.linkUp 2 → ∃ t, exec (.setGpioState (4 + k) state) s = .next t ∧
        t.agrees (State.finished { s with ioRoute := s.ioRoute.set 6 c } .nothing
          [.read 55 s.ioRoute.length (some s.ioRoute), .write 55 (s.ioRoute.set 6 c) true])) ∧
      FailsWithItsRead (.setGpioState (4 + k) state) s 55 s.ioRoute.length ∧
      FailsWithItsWrite (.setGpioState (4 + k) state) s 55 s.ioRoute.length s.ioRoute (s.ioRoute.set 6 c)) ∧
    (2 < state → RaisesAtOnce (.setGpioState (4 + k) state) s (.invalidChannel state))

/-- R124 GET_GPIO_STATE: Disabled where the pin's enable bit is clear, else High or Low as its output or state bit. -/
def Obligations.GetGpioDecodesThePin : Prop :=
  ∀ (s : State) (g : Nat), s.phase = .idle → s.ioRoute.length = s.cfg.params.ioRouteLen →
    (g < 7 →
      let enable := if g < 4 then (byteAt s.ioRoute g).getLsbD s.cfg.params.gpioEnBit
        else (byteAt s.ioRoute 6).getLsbD (2 * (g - 4))
      let level := if g < 4 then (byteAt s.ioRoute g).getLsbD s.cfg.params.gpioOutBit
        else (byteAt s.ioRoute 6).getLsbD (2 * (g - 4) + 1)
      (s.linkFails 0 = false → ∃ t, exec (.getGpioState g) s = .next t ∧
        t.agrees (s.finished (.gpioState (if enable then (if level then .high else .low) else .disabled))
          [.read 55 s.ioRoute.length (some s.ioRoute)])) ∧
      FailsWithItsRead (.getGpioState g) s 55 s.ioRoute.length) ∧
    (6 < g → RaisesAtOnce (.getGpioState g) s (.invalidChannel g))

/-- R125: for each special pin and state, SET_GPIO_STATE then GET_GPIO_STATE returns the state and the bit pairs of the other
special pins are unchanged; a regular pin put in GPIO-enabled mode can be set High and reads High. -/
def Obligations.SpecialPinsAreIndependent : Prop :=
  ∀ (s : State), s.phase = .idle → s.ioRoute.length = s.cfg.params.ioRouteLen →
    (∀ k state st, k < 3 → GPIOState.ofCode state = some st → s.linkUp 3 →
      ∃ t, execAll [.setGpioState (4 + k) state, .getGpioState (4 + k)] s = .next t ∧ t.report = .ok (.gpioState st) ∧
        ∀ j, j < 6 → j ≠ 2 * k → j ≠ 2 * k + 1 → (byteAt t.ioRoute 6).getLsbD j = (byteAt s.ioRoute 6).getLsbD j) ∧
    (∀ i p, i < 4 → TargetPin.ofIndex (i + 1) = some p → .gpioEnabled ∈ s.cfg.params.legalRoute p → s.linkUp 5 →
      ∃ t, execAll [.setIoRoute (i + 1) 7, .setGpioState i 1, .getGpioState i] s = .next t ∧
        t.report = .ok (.gpioState .high))

/-- R126, R127: SET_POWER_STATE writes bit 1 of byte 5, inverted, everything else as read; GET_POWER_STATE returns true where
that bit is clear. -/
def Obligations.PowerIsBit1OfByte5Inverted : Prop :=
  ∀ (s : State) (on : Bool) (b : Byte), s.phase = .idle → s.ioRoute.length = s.cfg.params.ioRouteLen →
    s.ioRoute[5]? = some b →
    (∃ c, BitReplaced b 1 (!on) c ∧
      (s.linkUp 2 → ∃ t, exec (.setPowerState on.toNat) s = .next t ∧
        t.agrees (State.finished { s with ioRoute := s.ioRoute.set 5 c } .nothing
          [.read 55 s.ioRoute.length (some s.ioRoute), .write 55 (s.ioRoute.set 5 c) true])) ∧
      FailsWithItsRead (.setPowerState on.toNat) s 55 s.ioRoute.length ∧
      FailsWithItsWrite (.setPowerState on.toNat) s 55 s.ioRoute.length s.ioRoute (s.ioRoute.set 5 c)) ∧
    (s.linkFails 0 = false → ∃ t, exec .getPowerState s = .next t ∧
      t.agrees (s.finished (.bool (!b.getLsbD 1)) [.read 55 s.ioRoute.length (some s.ioRoute)])) ∧
    FailsWithItsRead .getPowerState s 55 s.ioRoute.length

/-- R128, R129: SET_GLITCH_OUT_EN writes bit 0 (A) or 1 (B) of byte 4, everything else as read; GET_GLITCH_OUT_EN returns it;
a channel other than these raises InvalidChannel with no command; where the setting is gated and the variant has no glitch
output the setter raises InvalidParameter. -/
def Obligations.GlitchEnablesAreBitsOfByte4 : Prop :=
  ∀ (s : State) (channel : Nat) (on : Bool) (b : Byte), s.phase = .idle → s.ioRoute.length = s.cfg.params.ioRouteLen →
    s.ioRoute[4]? = some b →
    (channel < 2 → (s.cfg.params.glitchGated = false ∨ ∃ c, s.caps = some c ∧ c.hasGlitchOutput = true) →
      ∃ c, BitReplaced b channel on c ∧
        (s.linkUp 2 → ∃ t, exec (.setGlitchOutEn channel on.toNat) s = .next t ∧
          t.agrees (State.finished { s with ioRoute := s.ioRoute.set 4 c } .nothing
            [.read 55 s.ioRoute.length (some s.ioRoute), .write 55 (s.ioRoute.set 4 c) true])) ∧
        FailsWithItsRead (.setGlitchOutEn channel on.toNat) s 55 s.ioRoute.length ∧
        FailsWithItsWrite (.setGlitchOutEn channel on.toNat) s 55 s.ioRoute.length s.ioRoute (s.ioRoute.set 4 c)) ∧
    (channel < 2 → s.cfg.params.glitchGated = true → ∀ c, s.caps = some c → c.hasGlitchOutput = false →
      RaisesAtOnce (.setGlitchOutEn channel on.toNat) s (.invalidParameter [channel])) ∧
    (channel < 2 →
      (s.linkFails 0 = false → ∃ t, exec (.getGlitchOutEn channel) s = .next t ∧
        t.agrees (s.finished (.bool (b.getLsbD channel)) [.read 55 s.ioRoute.length (some s.ioRoute)])) ∧
      FailsWithItsRead (.getGlitchOutEn channel) s 55 s.ioRoute.length) ∧
    (1 < channel → RaisesAtOnce (.setGlitchOutEn channel on.toNat) s (.invalidChannel channel) ∧
      RaisesAtOnce (.getGlitchOutEn channel) s (.invalidChannel channel))

/-! ExternalClock (38) and the front-panel trigger output -/

/-- R140 SET_CLOCK_SOURCE: bits 2:0 of ExternalClock take the source's code, bits 7:3 are written back as read; a source the
profile does not have raises InvalidParameter with no command. -/
def Obligations.SetClockSourceWritesBits2To0 : Prop :=
  ∀ (s : State) (source : Nat) (caps : Profile), s.phase = .idle → s.caps = some caps →
    (∀ src, ClockSource.ofCode source = some src →
      let gated := (src = .pllInput ∧ caps.hasPLL = false) ∨
        ((src = .frontPanelA ∨ src = .frontPanelB) ∧ caps.hasFrontPanelPins = false)
      (¬gated → ∃ b, FieldReplaced s.extClk 0 3 ((s.cfg.params.clkSrcCode src).setWidth 8) b ∧
        (s.linkUp 2 → ∃ t, exec (.setClockSource source) s = .next t ∧
          t.agrees (State.finished { s with extClk := b } .nothing
            [.read 38 1 (some [s.extClk]), .write 38 [b] true])) ∧
        FailsWithItsRead (.setClockSource source) s 38 1 ∧
        FailsWithItsWrite (.setClockSource source) s 38 1 [s.extClk] [b]) ∧
      (gated → RaisesAtOnce (.setClockSource source) s (.invalidParameter [source]))) ∧
    (4 < source → RaisesAtOnce (.setClockSource source) s (.invalidChannel source))

/-- R142 SET_TARGET_CLOCK_OUT: bits 6:5 of ExternalClock take the mode's code, bits 4:0 and 7 are written back as read;
GlitchModule raises InvalidParameter where it is gated and the variant has no glitch output. -/
def Obligations.SetTargetClockOutWritesBits6To5 : Prop :=
  ∀ (s : State) (mode : Nat) (caps : Profile), s.phase = .idle → s.caps = some caps →
    (∀ m, TargetClockOut.ofCode mode = some m →
      let gated := s.cfg.params.glitchGated = true ∧ m = .glitchModule ∧ caps.hasGlitchOutput = false
      (¬gated → ∃ b, FieldReplaced s.extClk 5 2 ((s.cfg.params.clkOutCode m).setWidth 8) b ∧
        (s.linkUp 2 → ∃ t, exec (.setTargetClockOut mode) s = .next t ∧
          t.agrees (State.finished { s with extClk := b } .nothing
            [.read 38 1 (some [s.extClk]), .write 38 [b] true])) ∧
        FailsWithItsRead (.setTargetClockOut mode) s 38 1 ∧
        FailsWithItsWrite (.setTargetClockOut mode) s 38 1 [s.extClk] [b]) ∧
      (gated → RaisesAtOnce (.setTargetClockOut mode) s (.invalidParameter [mode]))) ∧
    (2 < mode → RaisesAtOnce (.setTargetClockOut mode) s (.invalidChannel mode))

/-- R141, R143: the getters of ExternalClock return the member whose code the field holds, else Unrecognised with the field's
value; they are not gated. -/
def Obligations.ClockGettersDecodeTheirFields : Prop :=
  ∀ s : State, s.phase = .idle →
    (s.linkFails 0 = false →
      (∀ m, (∀ j, j < 3 → (s.cfg.params.clkSrcCode m).getLsbD j = s.extClk.getLsbD j) →
        ∃ t, exec .getClockSource s = .next t ∧ t.agrees (s.finished (.clockSource m) [.read 38 1 (some [s.extClk])])) ∧
      ((∀ m, ∃ j, j < 3 ∧ (s.cfg.params.clkSrcCode m).getLsbD j ≠ s.extClk.getLsbD j) →
        ∃ t, exec .getClockSource s = .next t ∧
          t.agrees (s.finished (.unrecognised (s.extClk.toNat % 8)) [.read 38 1 (some [s.extClk])])) ∧
      (∀ m, (∀ j, j < 2 → (s.cfg.params.clkOutCode m).getLsbD j = s.extClk.getLsbD (5 + j)) →
        ∃ t, exec .getTargetClockOut s = .next t ∧
          t.agrees (s.finished (.targetClockOut m) [.read 38 1 (some [s.extClk])])) ∧
      ((∀ m, ∃ j, j < 2 ∧ (s.cfg.params.clkOutCode m).getLsbD j ≠ s.extClk.getLsbD (5 + j)) →
        ∃ t, exec .getTargetClockOut s = .next t ∧
          t.agrees (s.finished (.unrecognised (s.extClk.toNat / 32 % 4)) [.read 38 1 (some [s.extClk])]))) ∧
    FailsWithItsRead .getClockSource s 38 1 ∧ FailsWithItsRead .getTargetClockOut s 38 1

/-- R144, R145: the front-panel trigger output is bit 3 of TriggerModule; setter and getter need front-panel pins, else both
raise InvalidParameter with no command. -/
def Obligations.TrigoutIsBit3OfTriggerModule : Prop :=
  ∀ (s : State) (on : Bool) (caps : Profile), s.phase = .idle → s.caps = some caps →
    (caps.hasFrontPanelPins = true → (∃ b, BitReplaced s.trigMod 3 on b ∧
      (s.linkUp 2 → ∃ t, exec (.setTrigoutFpa on.toNat) s = .next t ∧
        t.agrees (State.finished { s with trigMod := b } .nothing
          [.read 40 1 (some [s.trigMod]), .write 40 [b] true])) ∧
      FailsWithItsRead (.setTrigoutFpa on.toNat) s 40 1 ∧
      FailsWithItsWrite (.setTrigoutFpa on.toNat) s 40 1 [s.trigMod] [b]) ∧
      (s.linkFails 0 = false → ∃ t, exec .getTrigoutFpa s = .next t ∧
        t.agrees (s.finished (.bool (s.trigMod.getLsbD 3)) [.read 40 1 (some [s.trigMod])])) ∧
      FailsWithItsRead .getTrigoutFpa s 40 1) ∧
    (caps.hasFrontPanelPins = false → RaisesAtOnce (.setTrigoutFpa on.toNat) s (.invalidParameter []) ∧
      RaisesAtOnce .getTrigoutFpa s (.invalidParameter []))

/-! TriggerModule (40) -/

/-- R155 SET_TRIGGER_MODULE: bits 2:0 of TriggerModule take the module's code, bits 7:3 are written back as read. Under the
policy Always one EdgeLock event comes before the READ (and stands when a command fails); under OnChange one after the READ,
where the module held differs. A module outside the variant's legal set raises InvalidParameter with no command and no event. -/
def Obligations.SetTriggerModuleWritesBits2To0 : Prop :=
  ∀ (s : State) (module : Nat) (m : TriggerModule) (v : HardwareVariant), s.phase = .idle → s.variant = some v →
    TriggerModule.ofCode module = some m →
    (m ∈ s.cfg.params.legalTrigMod v →
      let same := ∀ j, j < 3 → (s.cfg.params.trigModCode m).getLsbD j = s.trigMod.getLsbD j
      let event : EdgeLock := ⟨m != .basic⟩
      let emits := fun (u : State) => u.events = s.events ++ [event]
      ∃ b, FieldReplaced s.trigMod 0 3 ((s.cfg.params.trigModCode m).setWidth 8) b ∧
        (s.linkUp 2 → ∃ t, exec (.setTriggerModule module) s = .next t ∧
          (s.cfg.params.edgeFirePolicy = .always ∨ ¬same → emits t) ∧
          (s.cfg.params.edgeFirePolicy = .onChange → same → t.events = s.events) ∧
          t.agrees (State.finished { s with trigMod := b, events := t.events } .nothing
            [.read 40 1 (some [s.trigMod]), .write 40 [b] true])) ∧
        (s.linkFails 0 = true → ∃ t, exec (.setTriggerModule module) s = .next t ∧
          (s.cfg.params.edgeFirePolicy = .always → emits t) ∧
          (s.cfg.params.edgeFirePolicy = .onChange → t.events = s.events) ∧
          t.agrees (State.failed { s with events := t.events } (.transportFailure 40) [.read 40 1 none])) ∧
        (s.linkFails 0 = false → s.linkFails 1 = true → ∃ t c, exec (.setTriggerModule module) s = .next t ∧
          (s.cfg.params.edgeFirePolicy = .always ∨ ¬same → emits t) ∧
          (s.cfg.params.edgeFirePolicy = .onChange → same → t.events = s.events) ∧
          t.agrees (State.failed { s with trigMod := c, events := t.events } (.transportFailure 40)
            [.read 40 1 (some [s.trigMod]), .write 40 [b] false]))) ∧
    (m ∉ s.cfg.params.legalTrigMod v → RaisesAtOnce (.setTriggerModule module) s (.invalidParameter [module])) ∧
    (∀ x, 3 < x → RaisesAtOnce (.setTriggerModule x) s (.invalidChannel x))

/-- R156 GET_TRIGGER_MODULE: the module whose code bits 2:0 hold, else Unrecognised with their value; legal for the variant or
not. -/
def Obligations.GetTriggerModuleDecodesBits2To0 : Prop :=
  ∀ s : State, s.phase = .idle →
    (s.linkFails 0 = false →
      (∀ m, (∀ j, j < 3 → (s.cfg.params.trigModCode m).getLsbD j = s.trigMod.getLsbD j) →
        ∃ t, exec .getTriggerModule s = .next t ∧
          t.agrees (s.finished (.triggerModule m) [.read 40 1 (some [s.trigMod])])) ∧
      ((∀ m, ∃ j, j < 3 ∧ (s.cfg.params.trigModCode m).getLsbD j ≠ s.trigMod.getLsbD j) →
        ∃ t, exec .getTriggerModule s = .next t ∧
          t.agrees (s.finished (.unrecognised (s.trigMod.toNat % 8)) [.read 40 1 (some [s.trigMod])]))) ∧
    FailsWithItsRead .getTriggerModule s 40 1

/-- R30, R157: no request but SET_TRIGGER_MODULE adds an event, and that one at most one, from any state. -/
def Obligations.OnlySetTriggerModuleEmits : Prop :=
  ∀ (s t : State) (i : Instr), exec i s = .next t →
    ((∀ m, i ≠ .setTriggerModule m) → t.events = s.events) ∧
    (t.events = s.events ∨ ∃ m l, i = .setTriggerModule m ∧ t.events = s.events ++ [EdgeLock.mk l])

/-! The I2C master -/

/-- R185 I2C_READ_BYTE, the engine idle: setup, strobe and release with their waits, the status READ, and, where the slave
acknowledged, the data READ, whose byte is the result; else NoAcknowledge and no READ of I2CData. `txd` is not written. R176:
a failure of the status READ or the data READ ends it with TransportFailure, the engine as the completion step left it. A
number above 127 is refused. (`slaveRead` is the slave's answer, R49.) -/
def Obligations.I2cReadByteRunsTheHandshake : Prop :=
  ∀ (s : State) (sla reg : Reg7), s.phase = .idle →
    (s.eng = .idle → s.callerStays 4 →
      let answer := (s.slaveRead sla reg).1
      let after := { s with
        bus := (s.slaveRead sla reg).2.bus
        rxd := if answer.ack then some answer.data else none
        ctlLatch := some (releaseWord .read sla reg), nack := some (!answer.ack) }
      let tr := handshake .read sla reg
      (s.linkUp 5 → ∃ st0 st1 st2 t, exec (.i2cReadByte reg.toNat sla.toNat) s = .next t ∧ st0.getLsbD 0 = !answer.ack ∧
        (answer.ack = true → t.agrees (after.finished (.byte answer.data)
          (tr ++ [.read 47 3 (some [st0, st1, st2]), .read 48 1 (some [answer.data])]))) ∧
        (answer.ack = false → t.agrees (after.failed (.noAcknowledge sla reg) (tr ++ [.read 47 3 (some [st0, st1, st2])])))) ∧
      (s.linkUp 3 → s.linkFails 3 = true → ∃ t, exec (.i2cReadByte reg.toNat sla.toNat) s = .next t ∧
        t.agrees (after.failed (.transportFailure 47) (tr ++ [.read 47 3 none]))) ∧
      (s.linkUp 4 → s.linkFails 4 = true → answer.ack = true →
        ∃ st0 st1 st2 t, exec (.i2cReadByte reg.toNat sla.toNat) s = .next t ∧ st0.getLsbD 0 = false ∧
          t.agrees (after.failed (.transportFailure 48) (tr ++ [.read 47 3 (some [st0, st1, st2]), .read 48 1 none])))) ∧
    (∀ n m, 127 < n ∨ 127 < m → IsRefused (.i2cReadByte n m) s)

/-- R186 I2C_WRITE_BYTE, the engine idle: the data byte to I2CData, then the handshake of a write, then the status READ; a
slave that did not acknowledge raises NoAcknowledge. R176: a failure of the status READ ends it with TransportFailure, the
engine as the completion step left it. R186: a failure of the data WRITE, in any state of the engine, leaves that state as it
was and `txd` any byte. A number above 127 is refused. (What the strobe leaves of the receive byte: log entry 11; a Busy
engine and R171: log entry 18.) -/
def Obligations.I2cWriteByteRunsTheHandshake : Prop :=
  ∀ (s : State) (sla reg : Reg7) (data : Byte), s.phase = .idle →
    (s.eng = .idle → s.callerStays 4 →
      let answer := s.slaveWrite sla reg data
      let after := { s with
        bus := answer.2.bus, txd := data, rxd := none
        ctlLatch := some (releaseWord .write sla reg), nack := some (!answer.1) }
      let tr := fun (st : Option (List Byte)) => .write 48 [data] true :: (handshake .write sla reg ++ [.read 47 3 st])
      (s.linkUp 5 → ∃ st0 st1 st2 t, exec (.i2cWriteByte reg.toNat data sla.toNat) s = .next t ∧ st0.getLsbD 0 = !answer.1 ∧
        (answer.1 = true → t.agrees (after.finished .nothing (tr (some [st0, st1, st2])))) ∧
        (answer.1 = false → t.agrees (after.failed (.noAcknowledge sla reg) (tr (some [st0, st1, st2]))))) ∧
      (s.linkUp 4 → s.linkFails 4 = true → ∃ t, exec (.i2cWriteByte reg.toNat data sla.toNat) s = .next t ∧
        t.agrees (after.failed (.transportFailure 47) (tr none)))) ∧
    (s.linkFails 0 = true → ∃ t b, exec (.i2cWriteByte reg.toNat data sla.toNat) s = .next t ∧
      t.agrees (State.failed { s with txd := b } (.transportFailure 48) [.write 48 [data] false])) ∧
    (∀ n m, 127 < n ∨ 127 < m → IsRefused (.i2cWriteByte n data m) s)

/-- R187 PLL_IS_PRESENT: the byte read of register 0x00 at slave 0x69, whatever the engine and the transport do, but for what it
reports: true where the low nibble of the byte is 1; false for a transport failure, which is not surfaced; and for a slave that
does not acknowledge false or NoAcknowledge, as PRESENT_ON_NACK says. -/
def Obligations.ProbeReportsPresence : Prop :=
  ∀ s : State, s.phase = .idle → ∃ t, exec (.i2cReadByte 0x00 0x69) s = .next t ∧
    exec .pllIsPresent s = .next { t with report := probeReport s.cfg.params t.report }

/-- R188: under WB_SLAVE(sla, f), writing a byte to a register and reading it back returns it; every other register of the
slave is as before. -/
def Obligations.I2cRoundTrip : Prop :=
  ∀ (s : State) (sla reg : Reg7) (data : Byte) (f : Memory), s.phase = .idle → s.eng = .idle →
    s.bus = .wellBehaved sla f → Memory.wf f = true → s.linkUp 10 → s.callerStays 8 →
    ∃ t f', execAll [.i2cWriteByte reg.toNat data sla.toNat, .i2cReadByte reg.toNat sla.toNat] s = .next t ∧
      t.report = .ok (.byte data) ∧ t.eng = .idle ∧ t.bus = .wellBehaved sla f' ∧ Memory.wf f' = true ∧
      ∀ r : Reg7, Memory.read f' r.toNat = if r = reg then data else Memory.read f r.toNat

/-- R176: a byte read or a byte write ends with the engine Undefined where one of its three control WRITEs fails, the caller
staying: the commands before it have been issued, none after it, and TransportFailure is reported. (The slave of an Undefined
engine: log entry 14; the latches it leaves are any. The failures of the other commands: I2cReadByteRunsTheHandshake,
I2cWriteByteRunsTheHandshake.) -/
def Obligations.FailedControlWriteLeavesTheEngineUndefined : Prop :=
  ∀ (s : State) (sla reg : Reg7) (k : Nat), s.phase = .idle → k < 3 → s.callerStays (2 * k) →
    let issued := fun rw => (handshake rw sla reg).take (2 * k) ++
      [.write 47 [if k = 1 then 0x04 else 0x00, slaveByte rw sla, registerByte reg] false]
    (s.linkUp k → s.linkFails k = true →
      ∃ t latch nack rxd, exec (.i2cReadByte reg.toNat sla.toNat) s = .next t ∧
        t.agrees ((s.engineLost latch nack rxd).failed (.transportFailure 47) (issued .read))) ∧
    (∀ data, s.linkUp (k + 1) → s.linkFails (k + 1) = true →
      ∃ t latch nack rxd, exec (.i2cWriteByte reg.toNat data sla.toNat) s = .next t ∧
        t.agrees ((State.engineLost { s with txd := data } latch nack rxd).failed (.transportFailure 47)
          (.write 48 [data] true :: issued .write)))

/-- R176, D39: a caller that stops inside the handshake of a byte read or a byte write (at its k-th chance) ends it with no
result and leaves the engine Undefined. (Where the chances lie: log entry 15; the slave of an Undefined engine: log entry 14.) -/
def Obligations.AbandonmentLeavesTheEngineUndefined : Prop :=
  ∀ (s : State) (sla reg : Reg7) (k : Nat), s.phase = .idle → k < 4 → s.callerStays k → s.callerStops k = true →
    (s.linkUp (k / 2 + 1) → ∃ t latch nack rxd, exec (.i2cReadByte reg.toNat sla.toNat) s = .next t ∧
      t.agrees ((s.engineLost latch nack rxd).ended .none ((handshake .read sla reg).take (k + 1)))) ∧
    (∀ data, s.linkUp (k / 2 + 2) → ∃ t latch nack rxd, exec (.i2cWriteByte reg.toNat data sla.toNat) s = .next t ∧
      t.agrees ((State.engineLost { s with txd := data } latch nack rxd).ended .none
        (.write 48 [data] true :: (handshake .write sla reg).take (k + 1))))

/-- R47, R177: nothing but reset leaves the engine's state Undefined: from any state, a step keeps it. -/
def Obligations.UndefinedPersists : Prop :=
  ∀ s t : State, s.eng = .undefined → step s = .next t → t.eng = .undefined

/-! PLL programming -/

/-- R196 PLL_SETUP_PLL under WB_SLAVE(0x69, f), the engine idle: the low bytes of M and N go to their registers, and the third
register takes the overflow bits and the two flags, its two KEEP_MASK bits as read; 20 commands. Every register of the block
but the I2C latches is as before. -/
def Obligations.PllSetupPllProgramsTheChip : Prop :=
  ∀ (s : State) (n m : Nat) (bypass highspeed : Bool) (f : Memory), s.phase = .idle → s.eng = .idle →
    s.bus = .wellBehaved 0x69 f → Memory.wf f = true → s.linkUp 20 → s.callerStays 16 →
    let p := s.cfg.params.pll
    n < 2 ^ p.nW → m < 2 ^ p.mW →
    ∃ (v : Byte) (f' : Memory) (t : State) (tr : List Traffic) (latch : Option ControlWord) (txd : Byte) (rxd : Option Byte),
      (∀ j, j < 8 → v.getLsbD j =
        if j = p.hsBit.val then highspeed
        else if j = p.bypassBit.val then bypass
        else if p.nHiLo ≤ j ∧ j < p.nHiLo + (p.nW - 8) then n.testBit (8 + (j - p.nHiLo))
        else if p.mHiLo ≤ j ∧ j < p.mHiLo + (p.mW - 8) then m.testBit (8 + (j - p.mHiLo))
        else (Memory.read f p.hiReg.toNat).getLsbD j) ∧
      (∀ j, j < 8 → p.keepMask.getLsbD j = true → v.getLsbD j = (Memory.read f p.hiReg.toNat).getLsbD j) ∧
      (∀ r : Reg7, Memory.read f' r.toNat =
        if r = p.hiReg then v else if r = p.nReg then BitVec.ofNat 8 n else if r = p.mReg then BitVec.ofNat 8 m
        else Memory.read f r.toNat) ∧
      Memory.wf f' = true ∧ commandCount tr = 20 ∧
      exec (.pllSetupPll n m bypass.toNat highspeed.toNat 1) s = .next t ∧
      t.agrees (State.finished
        { s with bus := .wellBehaved 0x69 f', ctlLatch := latch, txd := txd, rxd := rxd, nack := some false } .nothing tr)

/-- R198 PLL_SETUP_DIVIDER under WB_SLAVE(0x69, f), the engine idle: the divider's register takes the setting, then the 3-bit
field of the shared register takes the source; the second WRITE is skipped where it would change nothing. -/
def Obligations.PllSetupDividerProgramsTheChip : Prop :=
  ∀ (s : State) (setting source d : Nat) (f : Memory), s.phase = .idle → s.eng = .idle →
    s.bus = .wellBehaved 0x69 f → Memory.wf f = true → s.linkUp 15 → s.callerStays 12 →
    1 ≤ setting → setting ≤ 127 → source < 8 → d < 6 →
    let p := s.cfg.params.pll
    let f1 := Memory.write f (p.divReg.get d).toNat (BitVec.ofNat 8 setting)
    let old := Memory.read f1 (p.srcReg d).toNat
    ∃ (v : Byte) (f' : Memory) (t : State) (tr : List Traffic) (latch : Option ControlWord) (txd : Byte) (rxd : Option Byte),
      FieldReplaced old (p.srcShift.get d) 3 (BitVec.ofNat 8 source) v ∧
      (∀ r : Reg7, Memory.read f' r.toNat =
        if r = p.srcReg d then v else if r = p.divReg.get d then BitVec.ofNat 8 setting else Memory.read f r.toNat) ∧
      Memory.wf f' = true ∧ commandCount tr = (if v = old then 10 else 15) ∧
      exec (.pllSetupDivider setting source d) s = .next t ∧
      t.agrees (State.finished
        { s with bus := .wellBehaved 0x69 f', ctlLatch := latch, txd := txd, rxd := rxd, nack := some false } .nothing tr)

/-- R199 PLL_SETUP_OUTPUT under WB_SLAVE(0x69, f), the engine idle: one byte composed whole of the enable, invert, slew and
divider-source fields, the unused bit 0, is written to the output's register without a read; 5 commands. -/
def Obligations.PllSetupOutputWritesOneByte : Prop :=
  ∀ (s : State) (out source slew : Nat) (invert enabled : Bool) (f : Memory), s.phase = .idle → s.eng = .idle →
    s.bus = .wellBehaved 0x69 f → Memory.wf f = true → s.linkUp 5 → s.callerStays 4 → out < 6 → source < 6 → slew < 4 →
    let p := s.cfg.params.pll
    ∃ (v : Byte) (f' : Memory) (t : State) (tr : List Traffic) (latch : Option ControlWord) (rxd : Option Byte),
      (∀ j, j < 8 → v.getLsbD j =
        if j = p.outEnBit.val then enabled
        else if j = p.outInvBit.val then invert
        else if p.outSlewLo.val ≤ j ∧ j < p.outSlewLo.val + 2 then slew.testBit (j - p.outSlewLo.val)
        else if p.outDivLo.val ≤ j ∧ j < p.outDivLo.val + 3 then source.testBit (j - p.outDivLo.val)
        else false) ∧
      (∀ r : Reg7, Memory.read f' r.toNat = if r.toNat = p.outBase + out then v else Memory.read f r.toNat) ∧
      Memory.wf f' = true ∧ commandCount tr = 5 ∧
      exec (.pllSetupOutput out invert.toNat enabled.toNat source slew) s = .next t ∧
      t.agrees (State.finished
        { s with bus := .wellBehaved 0x69 f', ctlLatch := latch, txd := v, rxd := rxd, nack := some false } .nothing tr)

/-- R200 PLL_SETUP_CLOCK_SOURCE under WB_SLAVE(0x69, f), the engine idle: where CS1_COND holds one bit of the first register is
patched, always by a WRITE; then exactly one of the two select bits of the second register is set, with a WRITE only where
the byte changes. -/
def Obligations.PllSetupClockSourceProgramsTheChip : Prop :=
  ∀ (s : State) (diff in0 in1 : Bool) (f : Memory), s.phase = .idle → s.eng = .idle →
    s.bus = .wellBehaved 0x69 f → Memory.wf f = true → s.linkUp 20 → s.callerStays 16 → (diff = true ∨ in0 ≠ in1) →
    let p := s.cfg.params.pll
    let first := p.cs1Cond.look diff in0 in1
    let old := Memory.read f p.cs2Reg.toNat
    ∃ (v1 v2 : Byte) (f' : Memory) (t : State) (tr : List Traffic) (latch : Option ControlWord) (txd : Byte)
      (rxd : Option Byte),
      BitReplaced (Memory.read f p.cs1Reg.toNat) p.cs1Bit.val (p.cs1Val.look diff in0 in1) v1 ∧
      (∀ j, j < 8 → v2.getLsbD j =
        if j = p.csDiffBit.val then diff else if j = p.csSeBit.val then !diff else old.getLsbD j) ∧
      (∀ r : Reg7, Memory.read f' r.toNat =
        if r = p.cs2Reg then v2 else if r = p.cs1Reg ∧ first = true then v1 else Memory.read f r.toNat) ∧
      Memory.wf f' = true ∧ commandCount tr = 5 + (if first then 10 else 0) + (if v2 = old then 0 else 5) ∧
      exec (.pllSetupClockSource diff.toNat in0.toNat in1.toNat) s = .next t ∧
      t.agrees (State.finished
        { s with bus := .wellBehaved 0x69 f', ctlLatch := latch, txd := txd, rxd := rxd, nack := some false } .nothing tr)

/-- R196 PLL_SETUP_PLL is its sequence of I2C byte operations, from any idle state and under any failures: it ends where the
first of them ends without a result, with what was completed standing and its error unchanged (R202). A number wider than its
field is refused; a PLL index other than 1 raises InvalidParameter with no command. -/
def Obligations.PllSetupPllIsItsSequence : Prop :=
  ∀ (s : State) (n m num : Nat) (bypass highspeed : Bool), s.phase = .idle →
    let p := s.cfg.params.pll
    let i := Instr.pllSetupPll n m bypass.toNat highspeed.toNat num
    (2 ^ p.nW ≤ n ∨ 2 ^ p.mW ≤ m → IsRefused i s) ∧
    (n < 2 ^ p.nW → m < 2 ^ p.mW → num ≠ 1 → RaisesAtOnce i s (.invalidParameter [num])) ∧
    (n < 2 ^ p.nW → m < 2 ^ p.mW → num = 1 → exec i s =
      andThen (exec (.i2cWriteByte p.mReg.toNat (BitVec.ofNat 8 m) 0x69) s) fun _ u =>
      andThen (exec (.i2cWriteByte p.nReg.toNat (BitVec.ofNat 8 n) 0x69) u) fun _ u =>
      andThen (exec (.i2cReadByte p.hiReg.toNat 0x69) u) fun h u =>
      let h1 := setbits (byteOf h) p.mHiLo (p.mW - 8) (BitVec.ofNat 8 (m / 256))
      let h2 := setbits h1 p.nHiLo (p.nW - 8) (BitVec.ofNat 8 (n / 256))
      let h3 := setbits h2 p.bypassBit 1 (bitOf bypass)
      exec (.i2cWriteByte p.hiReg.toNat (setbits h3 p.hsBit 1 (bitOf highspeed)) 0x69) u)

/-- R198 PLL_SETUP_DIVIDER is its sequence of I2C byte operations, from any idle state and under any failures (R202); the second
WRITE is skipped where it would change nothing. A source above 7 is refused; then a divider above 5, then a setting outside
1..127, raises InvalidParameter with no command. -/
def Obligations.PllSetupDividerIsItsSequence : Prop :=
  ∀ (s : State) (setting source d : Nat), s.phase = .idle →
    let p := s.cfg.params.pll
    let i := Instr.pllSetupDivider setting source d
    (7 < source → IsRefused i s) ∧
    (source ≤ 7 → 5 < d → RaisesAtOnce i s (.invalidParameter [d])) ∧
    (source ≤ 7 → d ≤ 5 → setting = 0 ∨ 127 < setting → RaisesAtOnce i s (.invalidParameter [setting])) ∧
    (source ≤ 7 → d ≤ 5 → 1 ≤ setting → setting ≤ 127 → exec i s =
      andThen (exec (.i2cWriteByte (p.divReg.get d).toNat (BitVec.ofNat 8 setting) 0x69) s) fun _ u =>
      andThen (exec (.i2cReadByte (p.srcReg d).toNat 0x69) u) fun r u =>
      let new := setbits (byteOf r) (p.srcShift.get d) 3 (BitVec.ofNat 8 source)
      if new = byteOf r then .next { u with report := .ok .nothing }
      else exec (.i2cWriteByte (p.srcReg d).toNat new 0x69) u)

/-- R199 PLL_SETUP_OUTPUT is one I2C byte write, without a read, of a byte composed whole, from any idle state and under any
failures. An output above 5 or a slew rate above 3 is refused; a divider source above 5 raises InvalidParameter with no
command. -/
def Obligations.PllSetupOutputIsItsSequence : Prop :=
  ∀ (s : State) (out source slew : Nat) (invert enabled : Bool), s.phase = .idle →
    let p := s.cfg.params.pll
    let i := Instr.pllSetupOutput out invert.toNat enabled.toNat source slew
    (5 < out ∨ 3 < slew → IsRefused i s) ∧
    (out ≤ 5 → slew ≤ 3 → 5 < source → RaisesAtOnce i s (.invalidParameter [source])) ∧
    (out ≤ 5 → slew ≤ 3 → source ≤ 5 →
      let b : Byte := bitOf enabled <<< p.outEnBit.val ||| bitOf invert <<< p.outInvBit.val |||
        BitVec.ofNat 8 slew <<< p.outSlewLo.val ||| BitVec.ofNat 8 source <<< p.outDivLo.val
      exec i s = exec (.i2cWriteByte (p.outBase + out) b 0x69) s)

/-- R200 PLL_SETUP_CLOCK_SOURCE is its sequence of I2C byte operations, from any idle state and under any failures (R202): the
first register's patch where CS1_COND holds, always written; then the second register's, written only where the byte changes.
A single-ended clock with both inputs or none raises InvalidParameter with no command. -/
def Obligations.PllSetupClockSourceIsItsSequence : Prop :=
  ∀ (s : State) (diff in0 in1 : Bool), s.phase = .idle →
    let p := s.cfg.params.pll
    let i := Instr.pllSetupClockSource diff.toNat in0.toNat in1.toNat
    let second := fun (u : State) =>
      andThen (exec (.i2cReadByte p.cs2Reg.toNat 0x69) u) fun r u =>
      let new := setbits (setbits (byteOf r) p.csDiffBit 1 (bitOf diff)) p.csSeBit 1 (bitOf (!diff))
      if new = byteOf r then .next { u with report := .ok .nothing }
      else exec (.i2cWriteByte p.cs2Reg.toNat new 0x69) u
    (diff = false → in0 = in1 → RaisesAtOnce i s (.invalidParameter [])) ∧
    (diff = true ∨ in0 ≠ in1 → exec i s =
      if p.cs1Cond.look diff in0 in1 then
        andThen (exec (.i2cReadByte p.cs1Reg.toNat 0x69) s) fun r u =>
        andThen (exec (.i2cWriteByte p.cs1Reg.toNat
          (setbits (byteOf r) p.cs1Bit 1 (bitOf (p.cs1Val.look diff in0 in1))) 0x69) u) fun _ u =>
        second u
      else second s)

/-! The whole machine -/

/-- The invariant is kept by every step from every state that has it. (That the parameters are a field of State: log entry 5;
the canonical form of a well-behaved slave's register file, R50: log entry 19; that a failed INIT leaves its variant and
profile: log entry 26.) -/
def Obligations.StepKeepsTheInvariant : Prop :=
  ∀ s t : State, s.Inv → step s = .next t → t.Inv

/-- The invariant holds at reset. (The width of IORoute at reset: log entry 7.) -/
def Obligations.InvariantAtReset : Prop := State.reset.Inv

/-- R222, R22: no operation hangs and none reads a stale buffer: from every state with no operation in progress a step has a
next state, again with none in progress. (That one step runs a whole operation: log entry 1.) -/
def Obligations.EveryStepEndsAtRest : Prop :=
  ∀ s : State, s.AtRest → ∃ t, step s = .next t ∧ t.AtRest

/-- R222, R21, R52, R45: from any state a step keeps the refusal mark where it is set, never changes the parameters, the
variant and profile of a constructed block, or Data, Length and Baud, and only adds to the command trace. (That the parameters
are a field of State: log entry 5; what stands for Data, Length and Baud: log entry 8.) -/
def Obligations.StepKeepsMarkProfileAndTrace : Prop :=
  ∀ s t : State, step s = .next t →
    (s.refused = true → t.refused = true) ∧ t.cfg = s.cfg ∧
    (s.phase ≠ .unconstructed → t.variant = s.variant ∧ t.caps = s.caps) ∧
    t.dataReg = s.dataReg ∧ t.lengthReg = s.lengthReg ∧ t.baudReg = s.baudReg ∧ ∃ tr, t.trace = s.trace ++ tr
end

