-- ==== Sys2Proof/Laws/Bits.lean ====
section
/-! SUPPORT. The masking primitives of spec/00_scope.md R10 bit by bit. -/

namespace Sys2Proof.Machine

/-- A mask has exactly the bits of its field. -/
@[simp] theorem mask_getLsbD (lo w j : Nat) :
    (mask lo w).getLsbD j = (decide (j < 8) && decide (lo ≤ j) && decide (j < lo + w)) := by
  simp only [mask, BitVec.getLsbD_shiftLeft, BitVec.getLsbD_ofNat, Nat.testBit_two_pow_sub_one]
  by_cases h1 : j < 8 <;> by_cases h2 : lo ≤ j <;> by_cases h3 : j < lo + w <;>
    simp [h1, h2, h3, Nat.not_lt.2] <;> omega

/-- A field write bit by bit. -/
theorem setbits_getLsbD (v f : Byte) (lo w j : Nat) (hj : j < 8) :
    (setbits v lo w f).getLsbD j = if lo ≤ j ∧ j < lo + w then f.getLsbD (j - lo) else v.getLsbD j := by
  simp only [setbits, BitVec.getLsbD_or, BitVec.getLsbD_and, BitVec.getLsbD_not, mask_getLsbD, BitVec.getLsbD_shiftLeft]
  by_cases h2 : lo ≤ j <;> by_cases h3 : j < lo + w <;> simp [hj, h2, h3]

/-- A field write replaces exactly its field. -/
theorem setbits_fieldReplaced (v f : Byte) (lo w : Nat) : FieldReplaced v lo w f (setbits v lo w f) :=
  fun j hj => setbits_getLsbD v f lo w j hj

/-- A field read bit by bit. -/
theorem getbits_getLsbD (v : Byte) (lo w j : Nat) (hj : j < 8) :
    (getbits v lo w).getLsbD j = (decide (j < w) && v.getLsbD (lo + j)) := by
  simp only [getbits, BitVec.getLsbD_and, BitVec.getLsbD_ushiftRight, mask_getLsbD]
  by_cases h : j < w <;> simp [hj, h]

/-- A single bit is a mask of width 1. -/
theorem one_shiftLeft_eq_mask (k : Nat) : (1 : Byte) <<< k = mask k 1 := rfl

/-- A bit write bit by bit. -/
theorem putBit_getLsbD (v : Byte) (k j : Nat) (on : Bool) (hj : j < 8) :
    (putBit v k on).getLsbD j = if j = k then on else v.getLsbD j := by
  simp only [putBit, one_shiftLeft_eq_mask]
  by_cases h : j = k
  · subst h
    cases on <;> simp [hj]
  · have hk : (decide (k ≤ j) && decide (j < k + 1)) = false := by
      simp only [Bool.and_eq_false_iff, decide_eq_false_iff_not]
      omega
    cases on <;> simp only [Bool.false_eq_true, if_false, if_true, BitVec.getLsbD_or, BitVec.getLsbD_and,
      BitVec.getLsbD_not, mask_getLsbD, Bool.and_assoc, hk] <;> simp [hj, h]

/-- A bit write replaces exactly its bit. -/
theorem putBit_bitReplaced (v : Byte) (k : Nat) (on : Bool) : BitReplaced v k on (putBit v k on) :=
  fun j hj => putBit_getLsbD v k j on hj

/-- A boolean as a field has it in bit 0. -/
@[simp] theorem bitOf_getLsbD (b : Bool) (j : Nat) : (bitOf b).getLsbD j = (decide (j = 0) && b) := by
  cases b <;> simp [bitOf, BitVec.getLsbD_one]

/-- Bit 0 of a boolean as a field. -/
@[simp] theorem bitOf_getElem_zero (b : Bool) : (bitOf b)[0] = b := by
  cases b <;> rfl

/-- A field of one bit is a bit. -/
theorem setbits_bitReplaced (v : Byte) (k : Nat) (on : Bool) : BitReplaced v k on (setbits v k 1 (bitOf on)) := by
  intro j hj
  rw [setbits_getLsbD v _ k 1 j hj]
  by_cases h : j = k
  · simp [h]
  · rw [if_neg (by omega), if_neg h]

/-- Two bytes with the same eight bits are the same. -/
theorem byte_ext {x y : Byte} (h : ∀ j, j < 8 → x.getLsbD j = y.getLsbD j) : x = y :=
  BitVec.eq_of_getLsbD_eq (fun j hj => h j hj)

/-- Two fields that replace the same bits of one byte by the same bits are the same byte. -/
theorem FieldReplaced.unique {old f x y : Byte} {lo w : Nat} (hx : FieldReplaced old lo w f x)
    (hy : FieldReplaced old lo w f y) : x = y :=
  byte_ext (fun j hj => by rw [hx j hj, hy j hj])

end Sys2Proof.Machine
end

