-- ==== Sys2Proof/Laws/State.lean ====
section
/-! SUPPORT. One lemma per field for each named update of State, so that no proof unfolds a record update. -/

namespace Sys2Proof.Machine.State

variable (s : State)

/-! `State.accept` -/

@[simp] theorem accept_cfg (op : Instr) : (s.accept op).cfg = s.cfg := rfl
@[simp] theorem accept_variant (op : Instr) : (s.accept op).variant = s.variant := rfl
@[simp] theorem accept_caps (op : Instr) : (s.accept op).caps = s.caps := rfl
@[simp] theorem accept_phase (op : Instr) : (s.accept op).phase = .running op 0 := rfl
@[simp] theorem accept_buf (op : Instr) : (s.accept op).buf = none := rfl
@[simp] theorem accept_refused (op : Instr) : (s.accept op).refused = s.refused := rfl
@[simp] theorem accept_refusal (op : Instr) : (s.accept op).refusal = s.refusal := rfl
@[simp] theorem accept_events (op : Instr) : (s.accept op).events = s.events := rfl
@[simp] theorem accept_report (op : Instr) : (s.accept op).report = .none := rfl
@[simp] theorem accept_trace (op : Instr) : (s.accept op).trace = s.trace := rfl
@[simp] theorem accept_dataReg (op : Instr) : (s.accept op).dataReg = s.dataReg := rfl
@[simp] theorem accept_lengthReg (op : Instr) : (s.accept op).lengthReg = s.lengthReg := rfl
@[simp] theorem accept_baudReg (op : Instr) : (s.accept op).baudReg = s.baudReg := rfl
@[simp] theorem accept_extClk (op : Instr) : (s.accept op).extClk = s.extClk := rfl
@[simp] theorem accept_trigSrc (op : Instr) : (s.accept op).trigSrc = s.trigSrc := rfl
@[simp] theorem accept_trigMod (op : Instr) : (s.accept op).trigMod = s.trigMod := rfl
@[simp] theorem accept_ioRoute (op : Instr) : (s.accept op).ioRoute = s.ioRoute := rfl
@[simp] theorem accept_ctlLatch (op : Instr) : (s.accept op).ctlLatch = s.ctlLatch := rfl
@[simp] theorem accept_txd (op : Instr) : (s.accept op).txd = s.txd := rfl
@[simp] theorem accept_rxd (op : Instr) : (s.accept op).rxd = s.rxd := rfl
@[simp] theorem accept_nack (op : Instr) : (s.accept op).nack = s.nack := rfl
@[simp] theorem accept_eng (op : Instr) : (s.accept op).eng = s.eng := rfl
@[simp] theorem accept_bus (op : Instr) : (s.accept op).bus = s.bus := rfl
@[simp] theorem accept_requests (op : Instr) : (s.accept op).requests = s.requests := rfl
@[simp] theorem accept_link (op : Instr) : (s.accept op).link = s.link := rfl
@[simp] theorem accept_caller (op : Instr) : (s.accept op).caller = s.caller := rfl
@[simp] theorem accept_engine (op : Instr) : (s.accept op).engine = s.engine := rfl
@[simp] theorem accept_noise (op : Instr) : (s.accept op).noise = s.noise := rfl
@[simp] theorem accept_slave (op : Instr) : (s.accept op).slave = s.slave := rfl

/-! `State.moveTo` -/

@[simp] theorem moveTo_cfg (op : Instr) (pc : Nat) : (s.moveTo op pc).cfg = s.cfg := rfl
@[simp] theorem moveTo_variant (op : Instr) (pc : Nat) : (s.moveTo op pc).variant = s.variant := rfl
@[simp] theorem moveTo_caps (op : Instr) (pc : Nat) : (s.moveTo op pc).caps = s.caps := rfl
@[simp] theorem moveTo_phase (op : Instr) (pc : Nat) : (s.moveTo op pc).phase = .running op pc := rfl
@[simp] theorem moveTo_buf (op : Instr) (pc : Nat) : (s.moveTo op pc).buf = s.buf := rfl
@[simp] theorem moveTo_refused (op : Instr) (pc : Nat) : (s.moveTo op pc).refused = s.refused := rfl
@[simp] theorem moveTo_refusal (op : Instr) (pc : Nat) : (s.moveTo op pc).refusal = s.refusal := rfl
@[simp] theorem moveTo_events (op : Instr) (pc : Nat) : (s.moveTo op pc).events = s.events := rfl
@[simp] theorem moveTo_report (op : Instr) (pc : Nat) : (s.moveTo op pc).report = s.report := rfl
@[simp] theorem moveTo_trace (op : Instr) (pc : Nat) : (s.moveTo op pc).trace = s.trace := rfl
@[simp] theorem moveTo_dataReg (op : Instr) (pc : Nat) : (s.moveTo op pc).dataReg = s.dataReg := rfl
@[simp] theorem moveTo_lengthReg (op : Instr) (pc : Nat) : (s.moveTo op pc).lengthReg = s.lengthReg := rfl
@[simp] theorem moveTo_baudReg (op : Instr) (pc : Nat) : (s.moveTo op pc).baudReg = s.baudReg := rfl
@[simp] theorem moveTo_extClk (op : Instr) (pc : Nat) : (s.moveTo op pc).extClk = s.extClk := rfl
@[simp] theorem moveTo_trigSrc (op : Instr) (pc : Nat) : (s.moveTo op pc).trigSrc = s.trigSrc := rfl
@[simp] theorem moveTo_trigMod (op : Instr) (pc : Nat) : (s.moveTo op pc).trigMod = s.trigMod := rfl
@[simp] theorem moveTo_ioRoute (op : Instr) (pc : Nat) : (s.moveTo op pc).ioRoute = s.ioRoute := rfl
@[simp] theorem moveTo_ctlLatch (op : Instr) (pc : Nat) : (s.moveTo op pc).ctlLatch = s.ctlLatch := rfl
@[simp] theorem moveTo_txd (op : Instr) (pc : Nat) : (s.moveTo op pc).txd = s.txd := rfl
@[simp] theorem moveTo_rxd (op : Instr) (pc : Nat) : (s.moveTo op pc).rxd = s.rxd := rfl
@[simp] theorem moveTo_nack (op : Instr) (pc : Nat) : (s.moveTo op pc).nack = s.nack := rfl
@[simp] theorem moveTo_eng (op : Instr) (pc : Nat) : (s.moveTo op pc).eng = s.eng := rfl
@[simp] theorem moveTo_bus (op : Instr) (pc : Nat) : (s.moveTo op pc).bus = s.bus := rfl
@[simp] theorem moveTo_requests (op : Instr) (pc : Nat) : (s.moveTo op pc).requests = s.requests := rfl
@[simp] theorem moveTo_link (op : Instr) (pc : Nat) : (s.moveTo op pc).link = s.link := rfl
@[simp] theorem moveTo_caller (op : Instr) (pc : Nat) : (s.moveTo op pc).caller = s.caller := rfl
@[simp] theorem moveTo_engine (op : Instr) (pc : Nat) : (s.moveTo op pc).engine = s.engine := rfl
@[simp] theorem moveTo_noise (op : Instr) (pc : Nat) : (s.moveTo op pc).noise = s.noise := rfl
@[simp] theorem moveTo_slave (op : Instr) (pc : Nat) : (s.moveTo op pc).slave = s.slave := rfl

/-! `State.returned` -/

@[simp] theorem returned_cfg (op : Instr) (r : Result) : (s.returned op r).cfg = s.cfg := rfl
@[simp] theorem returned_variant (op : Instr) (r : Result) : (s.returned op r).variant = s.variant := rfl
@[simp] theorem returned_caps (op : Instr) (r : Result) : (s.returned op r).caps = s.caps := rfl
@[simp] theorem returned_phase (op : Instr) (r : Result) : (s.returned op r).phase = restPhase op true := rfl
@[simp] theorem returned_buf (op : Instr) (r : Result) : (s.returned op r).buf = none := rfl
@[simp] theorem returned_refused (op : Instr) (r : Result) : (s.returned op r).refused = s.refused := rfl
@[simp] theorem returned_refusal (op : Instr) (r : Result) : (s.returned op r).refusal = s.refusal := rfl
@[simp] theorem returned_events (op : Instr) (r : Result) : (s.returned op r).events = s.events := rfl
@[simp] theorem returned_report (op : Instr) (r : Result) : (s.returned op r).report = .ok r := rfl
@[simp] theorem returned_trace (op : Instr) (r : Result) : (s.returned op r).trace = s.trace := rfl
@[simp] theorem returned_dataReg (op : Instr) (r : Result) : (s.returned op r).dataReg = s.dataReg := rfl
@[simp] theorem returned_lengthReg (op : Instr) (r : Result) : (s.returned op r).lengthReg = s.lengthReg := rfl
@[simp] theorem returned_baudReg (op : Instr) (r : Result) : (s.returned op r).baudReg = s.baudReg := rfl
@[simp] theorem returned_extClk (op : Instr) (r : Result) : (s.returned op r).extClk = s.extClk := rfl
@[simp] theorem returned_trigSrc (op : Instr) (r : Result) : (s.returned op r).trigSrc = s.trigSrc := rfl
@[simp] theorem returned_trigMod (op : Instr) (r : Result) : (s.returned op r).trigMod = s.trigMod := rfl
@[simp] theorem returned_ioRoute (op : Instr) (r : Result) : (s.returned op r).ioRoute = s.ioRoute := rfl
@[simp] theorem returned_ctlLatch (op : Instr) (r : Result) : (s.returned op r).ctlLatch = s.ctlLatch := rfl
@[simp] theorem returned_txd (op : Instr) (r : Result) : (s.returned op r).txd = s.txd := rfl
@[simp] theorem returned_rxd (op : Instr) (r : Result) : (s.returned op r).rxd = s.rxd := rfl
@[simp] theorem returned_nack (op : Instr) (r : Result) : (s.returned op r).nack = s.nack := rfl
@[simp] theorem returned_eng (op : Instr) (r : Result) : (s.returned op r).eng = s.eng := rfl
@[simp] theorem returned_bus (op : Instr) (r : Result) : (s.returned op r).bus = s.bus := rfl
@[simp] theorem returned_requests (op : Instr) (r : Result) : (s.returned op r).requests = s.requests := rfl
@[simp] theorem returned_link (op : Instr) (r : Result) : (s.returned op r).link = s.link := rfl
@[simp] theorem returned_caller (op : Instr) (r : Result) : (s.returned op r).caller = s.caller := rfl
@[simp] theorem returned_engine (op : Instr) (r : Result) : (s.returned op r).engine = s.engine := rfl
@[simp] theorem returned_noise (op : Instr) (r : Result) : (s.returned op r).noise = s.noise := rfl
@[simp] theorem returned_slave (op : Instr) (r : Result) : (s.returned op r).slave = s.slave := rfl

/-! `State.raised` -/

@[simp] theorem raised_cfg (op : Instr) (e : OpError) : (s.raised op e).cfg = s.cfg := rfl
@[simp] theorem raised_variant (op : Instr) (e : OpError) : (s.raised op e).variant = s.variant := rfl
@[simp] theorem raised_caps (op : Instr) (e : OpError) : (s.raised op e).caps = s.caps := rfl
@[simp] theorem raised_phase (op : Instr) (e : OpError) : (s.raised op e).phase = restPhase op false := rfl
@[simp] theorem raised_buf (op : Instr) (e : OpError) : (s.raised op e).buf = none := rfl
@[simp] theorem raised_refused (op : Instr) (e : OpError) : (s.raised op e).refused = s.refused := rfl
@[simp] theorem raised_refusal (op : Instr) (e : OpError) : (s.raised op e).refusal = s.refusal := rfl
@[simp] theorem raised_events (op : Instr) (e : OpError) : (s.raised op e).events = s.events := rfl
@[simp] theorem raised_report (op : Instr) (e : OpError) : (s.raised op e).report = reportOf s.cfg.params op e := rfl
@[simp] theorem raised_trace (op : Instr) (e : OpError) : (s.raised op e).trace = s.trace := rfl
@[simp] theorem raised_dataReg (op : Instr) (e : OpError) : (s.raised op e).dataReg = s.dataReg := rfl
@[simp] theorem raised_lengthReg (op : Instr) (e : OpError) : (s.raised op e).lengthReg = s.lengthReg := rfl
@[simp] theorem raised_baudReg (op : Instr) (e : OpError) : (s.raised op e).baudReg = s.baudReg := rfl
@[simp] theorem raised_extClk (op : Instr) (e : OpError) : (s.raised op e).extClk = s.extClk := rfl
@[simp] theorem raised_trigSrc (op : Instr) (e : OpError) : (s.raised op e).trigSrc = s.trigSrc := rfl
@[simp] theorem raised_trigMod (op : Instr) (e : OpError) : (s.raised op e).trigMod = s.trigMod := rfl
@[simp] theorem raised_ioRoute (op : Instr) (e : OpError) : (s.raised op e).ioRoute = s.ioRoute := rfl
@[simp] theorem raised_ctlLatch (op : Instr) (e : OpError) : (s.raised op e).ctlLatch = s.ctlLatch := rfl
@[simp] theorem raised_txd (op : Instr) (e : OpError) : (s.raised op e).txd = s.txd := rfl
@[simp] theorem raised_rxd (op : Instr) (e : OpError) : (s.raised op e).rxd = s.rxd := rfl
@[simp] theorem raised_nack (op : Instr) (e : OpError) : (s.raised op e).nack = s.nack := rfl
@[simp] theorem raised_eng (op : Instr) (e : OpError) : (s.raised op e).eng = s.eng := rfl
@[simp] theorem raised_bus (op : Instr) (e : OpError) : (s.raised op e).bus = s.bus := rfl
@[simp] theorem raised_requests (op : Instr) (e : OpError) : (s.raised op e).requests = s.requests := rfl
@[simp] theorem raised_link (op : Instr) (e : OpError) : (s.raised op e).link = s.link := rfl
@[simp] theorem raised_caller (op : Instr) (e : OpError) : (s.raised op e).caller = s.caller := rfl
@[simp] theorem raised_engine (op : Instr) (e : OpError) : (s.raised op e).engine = s.engine := rfl
@[simp] theorem raised_noise (op : Instr) (e : OpError) : (s.raised op e).noise = s.noise := rfl
@[simp] theorem raised_slave (op : Instr) (e : OpError) : (s.raised op e).slave = s.slave := rfl

/-! `State.refuse` -/

@[simp] theorem refuse_cfg (r : RefusalReason) : (s.refuse r).cfg = s.cfg := rfl
@[simp] theorem refuse_variant (r : RefusalReason) : (s.refuse r).variant = s.variant := rfl
@[simp] theorem refuse_caps (r : RefusalReason) : (s.refuse r).caps = s.caps := rfl
@[simp] theorem refuse_phase (r : RefusalReason) : (s.refuse r).phase = s.phase := rfl
@[simp] theorem refuse_buf (r : RefusalReason) : (s.refuse r).buf = s.buf := rfl
@[simp] theorem refuse_refused (r : RefusalReason) : (s.refuse r).refused = true := rfl
@[simp] theorem refuse_refusal (r : RefusalReason) : (s.refuse r).refusal = some r := rfl
@[simp] theorem refuse_events (r : RefusalReason) : (s.refuse r).events = s.events := rfl
@[simp] theorem refuse_report (r : RefusalReason) : (s.refuse r).report = .none := rfl
@[simp] theorem refuse_trace (r : RefusalReason) : (s.refuse r).trace = s.trace := rfl
@[simp] theorem refuse_dataReg (r : RefusalReason) : (s.refuse r).dataReg = s.dataReg := rfl
@[simp] theorem refuse_lengthReg (r : RefusalReason) : (s.refuse r).lengthReg = s.lengthReg := rfl
@[simp] theorem refuse_baudReg (r : RefusalReason) : (s.refuse r).baudReg = s.baudReg := rfl
@[simp] theorem refuse_extClk (r : RefusalReason) : (s.refuse r).extClk = s.extClk := rfl
@[simp] theorem refuse_trigSrc (r : RefusalReason) : (s.refuse r).trigSrc = s.trigSrc := rfl
@[simp] theorem refuse_trigMod (r : RefusalReason) : (s.refuse r).trigMod = s.trigMod := rfl
@[simp] theorem refuse_ioRoute (r : RefusalReason) : (s.refuse r).ioRoute = s.ioRoute := rfl
@[simp] theorem refuse_ctlLatch (r : RefusalReason) : (s.refuse r).ctlLatch = s.ctlLatch := rfl
@[simp] theorem refuse_txd (r : RefusalReason) : (s.refuse r).txd = s.txd := rfl
@[simp] theorem refuse_rxd (r : RefusalReason) : (s.refuse r).rxd = s.rxd := rfl
@[simp] theorem refuse_nack (r : RefusalReason) : (s.refuse r).nack = s.nack := rfl
@[simp] theorem refuse_eng (r : RefusalReason) : (s.refuse r).eng = s.eng := rfl
@[simp] theorem refuse_bus (r : RefusalReason) : (s.refuse r).bus = s.bus := rfl
@[simp] theorem refuse_requests (r : RefusalReason) : (s.refuse r).requests = s.requests := rfl
@[simp] theorem refuse_link (r : RefusalReason) : (s.refuse r).link = s.link := rfl
@[simp] theorem refuse_caller (r : RefusalReason) : (s.refuse r).caller = s.caller := rfl
@[simp] theorem refuse_engine (r : RefusalReason) : (s.refuse r).engine = s.engine := rfl
@[simp] theorem refuse_noise (r : RefusalReason) : (s.refuse r).noise = s.noise := rfl
@[simp] theorem refuse_slave (r : RefusalReason) : (s.refuse r).slave = s.slave := rfl

/-! `State.refusedIn` -/

@[simp] theorem refusedIn_cfg (op : Instr) (r : RefusalReason) : (s.refusedIn op r).cfg = s.cfg := rfl
@[simp] theorem refusedIn_variant (op : Instr) (r : RefusalReason) : (s.refusedIn op r).variant = s.variant := rfl
@[simp] theorem refusedIn_caps (op : Instr) (r : RefusalReason) : (s.refusedIn op r).caps = s.caps := rfl
@[simp] theorem refusedIn_phase (op : Instr) (r : RefusalReason) : (s.refusedIn op r).phase = restPhase op false := rfl
@[simp] theorem refusedIn_buf (op : Instr) (r : RefusalReason) : (s.refusedIn op r).buf = none := rfl
@[simp] theorem refusedIn_refused (op : Instr) (r : RefusalReason) : (s.refusedIn op r).refused = true := rfl
@[simp] theorem refusedIn_refusal (op : Instr) (r : RefusalReason) : (s.refusedIn op r).refusal = some r := rfl
@[simp] theorem refusedIn_events (op : Instr) (r : RefusalReason) : (s.refusedIn op r).events = s.events := rfl
@[simp] theorem refusedIn_report (op : Instr) (r : RefusalReason) : (s.refusedIn op r).report = .none := rfl
@[simp] theorem refusedIn_trace (op : Instr) (r : RefusalReason) : (s.refusedIn op r).trace = s.trace := rfl
@[simp] theorem refusedIn_dataReg (op : Instr) (r : RefusalReason) : (s.refusedIn op r).dataReg = s.dataReg := rfl
@[simp] theorem refusedIn_lengthReg (op : Instr) (r : RefusalReason) : (s.refusedIn op r).lengthReg = s.lengthReg := rfl
@[simp] theorem refusedIn_baudReg (op : Instr) (r : RefusalReason) : (s.refusedIn op r).baudReg = s.baudReg := rfl
@[simp] theorem refusedIn_extClk (op : Instr) (r : RefusalReason) : (s.refusedIn op r).extClk = s.extClk := rfl
@[simp] theorem refusedIn_trigSrc (op : Instr) (r : RefusalReason) : (s.refusedIn op r).trigSrc = s.trigSrc := rfl
@[simp] theorem refusedIn_trigMod (op : Instr) (r : RefusalReason) : (s.refusedIn op r).trigMod = s.trigMod := rfl
@[simp] theorem refusedIn_ioRoute (op : Instr) (r : RefusalReason) : (s.refusedIn op r).ioRoute = s.ioRoute := rfl
@[simp] theorem refusedIn_ctlLatch (op : Instr) (r : RefusalReason) : (s.refusedIn op r).ctlLatch = s.ctlLatch := rfl
@[simp] theorem refusedIn_txd (op : Instr) (r : RefusalReason) : (s.refusedIn op r).txd = s.txd := rfl
@[simp] theorem refusedIn_rxd (op : Instr) (r : RefusalReason) : (s.refusedIn op r).rxd = s.rxd := rfl
@[simp] theorem refusedIn_nack (op : Instr) (r : RefusalReason) : (s.refusedIn op r).nack = s.nack := rfl
@[simp] theorem refusedIn_eng (op : Instr) (r : RefusalReason) : (s.refusedIn op r).eng = s.eng := rfl
@[simp] theorem refusedIn_bus (op : Instr) (r : RefusalReason) : (s.refusedIn op r).bus = s.bus := rfl
@[simp] theorem refusedIn_requests (op : Instr) (r : RefusalReason) : (s.refusedIn op r).requests = s.requests := rfl
@[simp] theorem refusedIn_link (op : Instr) (r : RefusalReason) : (s.refusedIn op r).link = s.link := rfl
@[simp] theorem refusedIn_caller (op : Instr) (r : RefusalReason) : (s.refusedIn op r).caller = s.caller := rfl
@[simp] theorem refusedIn_engine (op : Instr) (r : RefusalReason) : (s.refusedIn op r).engine = s.engine := rfl
@[simp] theorem refusedIn_noise (op : Instr) (r : RefusalReason) : (s.refusedIn op r).noise = s.noise := rfl
@[simp] theorem refusedIn_slave (op : Instr) (r : RefusalReason) : (s.refusedIn op r).slave = s.slave := rfl

/-! `State.abandoned` -/

@[simp] theorem abandoned_cfg (op : Instr) : (s.abandoned op).cfg = s.cfg := rfl
@[simp] theorem abandoned_variant (op : Instr) : (s.abandoned op).variant = s.variant := rfl
@[simp] theorem abandoned_caps (op : Instr) : (s.abandoned op).caps = s.caps := rfl
@[simp] theorem abandoned_phase (op : Instr) : (s.abandoned op).phase = restPhase op false := rfl
@[simp] theorem abandoned_buf (op : Instr) : (s.abandoned op).buf = none := rfl
@[simp] theorem abandoned_refused (op : Instr) : (s.abandoned op).refused = s.refused := rfl
@[simp] theorem abandoned_refusal (op : Instr) : (s.abandoned op).refusal = s.refusal := rfl
@[simp] theorem abandoned_events (op : Instr) : (s.abandoned op).events = s.events := rfl
@[simp] theorem abandoned_report (op : Instr) : (s.abandoned op).report = .none := rfl
@[simp] theorem abandoned_trace (op : Instr) : (s.abandoned op).trace = s.trace := rfl
@[simp] theorem abandoned_dataReg (op : Instr) : (s.abandoned op).dataReg = s.dataReg := rfl
@[simp] theorem abandoned_lengthReg (op : Instr) : (s.abandoned op).lengthReg = s.lengthReg := rfl
@[simp] theorem abandoned_baudReg (op : Instr) : (s.abandoned op).baudReg = s.baudReg := rfl
@[simp] theorem abandoned_extClk (op : Instr) : (s.abandoned op).extClk = s.extClk := rfl
@[simp] theorem abandoned_trigSrc (op : Instr) : (s.abandoned op).trigSrc = s.trigSrc := rfl
@[simp] theorem abandoned_trigMod (op : Instr) : (s.abandoned op).trigMod = s.trigMod := rfl
@[simp] theorem abandoned_ioRoute (op : Instr) : (s.abandoned op).ioRoute = s.ioRoute := rfl
@[simp] theorem abandoned_ctlLatch (op : Instr) : (s.abandoned op).ctlLatch = s.ctlLatch := rfl
@[simp] theorem abandoned_txd (op : Instr) : (s.abandoned op).txd = s.txd := rfl
@[simp] theorem abandoned_rxd (op : Instr) : (s.abandoned op).rxd = s.rxd := rfl
@[simp] theorem abandoned_nack (op : Instr) : (s.abandoned op).nack = s.nack := rfl
@[simp] theorem abandoned_eng (op : Instr) : (s.abandoned op).eng = .undefined := rfl
@[simp] theorem abandoned_bus (op : Instr) : (s.abandoned op).bus = .lawless := rfl
@[simp] theorem abandoned_requests (op : Instr) : (s.abandoned op).requests = s.requests := rfl
@[simp] theorem abandoned_link (op : Instr) : (s.abandoned op).link = s.link := rfl
@[simp] theorem abandoned_caller (op : Instr) : (s.abandoned op).caller = s.caller := rfl
@[simp] theorem abandoned_engine (op : Instr) : (s.abandoned op).engine = s.engine := rfl
@[simp] theorem abandoned_noise (op : Instr) : (s.abandoned op).noise = s.noise := rfl
@[simp] theorem abandoned_slave (op : Instr) : (s.abandoned op).slave = s.slave := rfl

/-! `State.undefineEngine` -/

@[simp] theorem undefineEngine_cfg : (s.undefineEngine).cfg = s.cfg := rfl
@[simp] theorem undefineEngine_variant : (s.undefineEngine).variant = s.variant := rfl
@[simp] theorem undefineEngine_caps : (s.undefineEngine).caps = s.caps := rfl
@[simp] theorem undefineEngine_phase : (s.undefineEngine).phase = s.phase := rfl
@[simp] theorem undefineEngine_buf : (s.undefineEngine).buf = s.buf := rfl
@[simp] theorem undefineEngine_refused : (s.undefineEngine).refused = s.refused := rfl
@[simp] theorem undefineEngine_refusal : (s.undefineEngine).refusal = s.refusal := rfl
@[simp] theorem undefineEngine_events : (s.undefineEngine).events = s.events := rfl
@[simp] theorem undefineEngine_report : (s.undefineEngine).report = s.report := rfl
@[simp] theorem undefineEngine_trace : (s.undefineEngine).trace = s.trace := rfl
@[simp] theorem undefineEngine_dataReg : (s.undefineEngine).dataReg = s.dataReg := rfl
@[simp] theorem undefineEngine_lengthReg : (s.undefineEngine).lengthReg = s.lengthReg := rfl
@[simp] theorem undefineEngine_baudReg : (s.undefineEngine).baudReg = s.baudReg := rfl
@[simp] theorem undefineEngine_extClk : (s.undefineEngine).extClk = s.extClk := rfl
@[simp] theorem undefineEngine_trigSrc : (s.undefineEngine).trigSrc = s.trigSrc := rfl
@[simp] theorem undefineEngine_trigMod : (s.undefineEngine).trigMod = s.trigMod := rfl
@[simp] theorem undefineEngine_ioRoute : (s.undefineEngine).ioRoute = s.ioRoute := rfl
@[simp] theorem undefineEngine_ctlLatch : (s.undefineEngine).ctlLatch = s.ctlLatch := rfl
@[simp] theorem undefineEngine_txd : (s.undefineEngine).txd = s.txd := rfl
@[simp] theorem undefineEngine_rxd : (s.undefineEngine).rxd = s.rxd := rfl
@[simp] theorem undefineEngine_nack : (s.undefineEngine).nack = s.nack := rfl
@[simp] theorem undefineEngine_eng : (s.undefineEngine).eng = .undefined := rfl
@[simp] theorem undefineEngine_bus : (s.undefineEngine).bus = .lawless := rfl
@[simp] theorem undefineEngine_requests : (s.undefineEngine).requests = s.requests := rfl
@[simp] theorem undefineEngine_link : (s.undefineEngine).link = s.link := rfl
@[simp] theorem undefineEngine_caller : (s.undefineEngine).caller = s.caller := rfl
@[simp] theorem undefineEngine_engine : (s.undefineEngine).engine = s.engine := rfl
@[simp] theorem undefineEngine_noise : (s.undefineEngine).noise = s.noise := rfl
@[simp] theorem undefineEngine_slave : (s.undefineEngine).slave = s.slave := rfl

/-! `State.emitted` -/

@[simp] theorem emitted_cfg (lock : Bool) : (s.emitted lock).cfg = s.cfg := rfl
@[simp] theorem emitted_variant (lock : Bool) : (s.emitted lock).variant = s.variant := rfl
@[simp] theorem emitted_caps (lock : Bool) : (s.emitted lock).caps = s.caps := rfl
@[simp] theorem emitted_phase (lock : Bool) : (s.emitted lock).phase = s.phase := rfl
@[simp] theorem emitted_buf (lock : Bool) : (s.emitted lock).buf = s.buf := rfl
@[simp] theorem emitted_refused (lock : Bool) : (s.emitted lock).refused = s.refused := rfl
@[simp] theorem emitted_refusal (lock : Bool) : (s.emitted lock).refusal = s.refusal := rfl
@[simp] theorem emitted_events (lock : Bool) : (s.emitted lock).events = s.events ++ [EdgeLock.mk lock] := rfl
@[simp] theorem emitted_report (lock : Bool) : (s.emitted lock).report = s.report := rfl
@[simp] theorem emitted_trace (lock : Bool) : (s.emitted lock).trace = s.trace := rfl
@[simp] theorem emitted_dataReg (lock : Bool) : (s.emitted lock).dataReg = s.dataReg := rfl
@[simp] theorem emitted_lengthReg (lock : Bool) : (s.emitted lock).lengthReg = s.lengthReg := rfl
@[simp] theorem emitted_baudReg (lock : Bool) : (s.emitted lock).baudReg = s.baudReg := rfl
@[simp] theorem emitted_extClk (lock : Bool) : (s.emitted lock).extClk = s.extClk := rfl
@[simp] theorem emitted_trigSrc (lock : Bool) : (s.emitted lock).trigSrc = s.trigSrc := rfl
@[simp] theorem emitted_trigMod (lock : Bool) : (s.emitted lock).trigMod = s.trigMod := rfl
@[simp] theorem emitted_ioRoute (lock : Bool) : (s.emitted lock).ioRoute = s.ioRoute := rfl
@[simp] theorem emitted_ctlLatch (lock : Bool) : (s.emitted lock).ctlLatch = s.ctlLatch := rfl
@[simp] theorem emitted_txd (lock : Bool) : (s.emitted lock).txd = s.txd := rfl
@[simp] theorem emitted_rxd (lock : Bool) : (s.emitted lock).rxd = s.rxd := rfl
@[simp] theorem emitted_nack (lock : Bool) : (s.emitted lock).nack = s.nack := rfl
@[simp] theorem emitted_eng (lock : Bool) : (s.emitted lock).eng = s.eng := rfl
@[simp] theorem emitted_bus (lock : Bool) : (s.emitted lock).bus = s.bus := rfl
@[simp] theorem emitted_requests (lock : Bool) : (s.emitted lock).requests = s.requests := rfl
@[simp] theorem emitted_link (lock : Bool) : (s.emitted lock).link = s.link := rfl
@[simp] theorem emitted_caller (lock : Bool) : (s.emitted lock).caller = s.caller := rfl
@[simp] theorem emitted_engine (lock : Bool) : (s.emitted lock).engine = s.engine := rfl
@[simp] theorem emitted_noise (lock : Bool) : (s.emitted lock).noise = s.noise := rfl
@[simp] theorem emitted_slave (lock : Bool) : (s.emitted lock).slave = s.slave := rfl

/-! `State.record` -/

@[simp] theorem record_cfg (x : Traffic) : (s.record x).cfg = s.cfg := rfl
@[simp] theorem record_variant (x : Traffic) : (s.record x).variant = s.variant := rfl
@[simp] theorem record_caps (x : Traffic) : (s.record x).caps = s.caps := rfl
@[simp] theorem record_phase (x : Traffic) : (s.record x).phase = s.phase := rfl
@[simp] theorem record_buf (x : Traffic) : (s.record x).buf = s.buf := rfl
@[simp] theorem record_refused (x : Traffic) : (s.record x).refused = s.refused := rfl
@[simp] theorem record_refusal (x : Traffic) : (s.record x).refusal = s.refusal := rfl
@[simp] theorem record_events (x : Traffic) : (s.record x).events = s.events := rfl
@[simp] theorem record_report (x : Traffic) : (s.record x).report = s.report := rfl
@[simp] theorem record_trace (x : Traffic) : (s.record x).trace = s.trace ++ [x] := rfl
@[simp] theorem record_dataReg (x : Traffic) : (s.record x).dataReg = s.dataReg := rfl
@[simp] theorem record_lengthReg (x : Traffic) : (s.record x).lengthReg = s.lengthReg := rfl
@[simp] theorem record_baudReg (x : Traffic) : (s.record x).baudReg = s.baudReg := rfl
@[simp] theorem record_extClk (x : Traffic) : (s.record x).extClk = s.extClk := rfl
@[simp] theorem record_trigSrc (x : Traffic) : (s.record x).trigSrc = s.trigSrc := rfl
@[simp] theorem record_trigMod (x : Traffic) : (s.record x).trigMod = s.trigMod := rfl
@[simp] theorem record_ioRoute (x : Traffic) : (s.record x).ioRoute = s.ioRoute := rfl
@[simp] theorem record_ctlLatch (x : Traffic) : (s.record x).ctlLatch = s.ctlLatch := rfl
@[simp] theorem record_txd (x : Traffic) : (s.record x).txd = s.txd := rfl
@[simp] theorem record_rxd (x : Traffic) : (s.record x).rxd = s.rxd := rfl
@[simp] theorem record_nack (x : Traffic) : (s.record x).nack = s.nack := rfl
@[simp] theorem record_eng (x : Traffic) : (s.record x).eng = s.eng := rfl
@[simp] theorem record_bus (x : Traffic) : (s.record x).bus = s.bus := rfl
@[simp] theorem record_requests (x : Traffic) : (s.record x).requests = s.requests := rfl
@[simp] theorem record_link (x : Traffic) : (s.record x).link = s.link := rfl
@[simp] theorem record_caller (x : Traffic) : (s.record x).caller = s.caller := rfl
@[simp] theorem record_engine (x : Traffic) : (s.record x).engine = s.engine := rfl
@[simp] theorem record_noise (x : Traffic) : (s.record x).noise = s.noise := rfl
@[simp] theorem record_slave (x : Traffic) : (s.record x).slave = s.slave := rfl

/-! `State.withRequest` -/

@[simp] theorem withRequest_cfg (r : List Byte) : (s.withRequest r).cfg = s.cfg := rfl
@[simp] theorem withRequest_variant (r : List Byte) : (s.withRequest r).variant = s.variant := rfl
@[simp] theorem withRequest_caps (r : List Byte) : (s.withRequest r).caps = s.caps := rfl
@[simp] theorem withRequest_phase (r : List Byte) : (s.withRequest r).phase = s.phase := rfl
@[simp] theorem withRequest_buf (r : List Byte) : (s.withRequest r).buf = s.buf := rfl
@[simp] theorem withRequest_refused (r : List Byte) : (s.withRequest r).refused = s.refused := rfl
@[simp] theorem withRequest_refusal (r : List Byte) : (s.withRequest r).refusal = s.refusal := rfl
@[simp] theorem withRequest_events (r : List Byte) : (s.withRequest r).events = s.events := rfl
@[simp] theorem withRequest_report (r : List Byte) : (s.withRequest r).report = s.report := rfl
@[simp] theorem withRequest_trace (r : List Byte) : (s.withRequest r).trace = s.trace := rfl
@[simp] theorem withRequest_dataReg (r : List Byte) : (s.withRequest r).dataReg = s.dataReg := rfl
@[simp] theorem withRequest_lengthReg (r : List Byte) : (s.withRequest r).lengthReg = s.lengthReg := rfl
@[simp] theorem withRequest_baudReg (r : List Byte) : (s.withRequest r).baudReg = s.baudReg := rfl
@[simp] theorem withRequest_extClk (r : List Byte) : (s.withRequest r).extClk = s.extClk := rfl
@[simp] theorem withRequest_trigSrc (r : List Byte) : (s.withRequest r).trigSrc = s.trigSrc := rfl
@[simp] theorem withRequest_trigMod (r : List Byte) : (s.withRequest r).trigMod = s.trigMod := rfl
@[simp] theorem withRequest_ioRoute (r : List Byte) : (s.withRequest r).ioRoute = s.ioRoute := rfl
@[simp] theorem withRequest_ctlLatch (r : List Byte) : (s.withRequest r).ctlLatch = s.ctlLatch := rfl
@[simp] theorem withRequest_txd (r : List Byte) : (s.withRequest r).txd = s.txd := rfl
@[simp] theorem withRequest_rxd (r : List Byte) : (s.withRequest r).rxd = s.rxd := rfl
@[simp] theorem withRequest_nack (r : List Byte) : (s.withRequest r).nack = s.nack := rfl
@[simp] theorem withRequest_eng (r : List Byte) : (s.withRequest r).eng = s.eng := rfl
@[simp] theorem withRequest_bus (r : List Byte) : (s.withRequest r).bus = s.bus := rfl
@[simp] theorem withRequest_requests (r : List Byte) : (s.withRequest r).requests = r :: s.requests := rfl
@[simp] theorem withRequest_link (r : List Byte) : (s.withRequest r).link = s.link := rfl
@[simp] theorem withRequest_caller (r : List Byte) : (s.withRequest r).caller = s.caller := rfl
@[simp] theorem withRequest_engine (r : List Byte) : (s.withRequest r).engine = s.engine := rfl
@[simp] theorem withRequest_noise (r : List Byte) : (s.withRequest r).noise = s.noise := rfl
@[simp] theorem withRequest_slave (r : List Byte) : (s.withRequest r).slave = s.slave := rfl

/-! `State.ended` -/

@[simp] theorem ended_cfg (rep : Report) (tr : List Traffic) : (s.ended rep tr).cfg = s.cfg := rfl
@[simp] theorem ended_variant (rep : Report) (tr : List Traffic) : (s.ended rep tr).variant = s.variant := rfl
@[simp] theorem ended_caps (rep : Report) (tr : List Traffic) : (s.ended rep tr).caps = s.caps := rfl
@[simp] theorem ended_phase (rep : Report) (tr : List Traffic) : (s.ended rep tr).phase = .idle := rfl
@[simp] theorem ended_buf (rep : Report) (tr : List Traffic) : (s.ended rep tr).buf = s.buf := rfl
@[simp] theorem ended_refused (rep : Report) (tr : List Traffic) : (s.ended rep tr).refused = s.refused := rfl
@[simp] theorem ended_refusal (rep : Report) (tr : List Traffic) : (s.ended rep tr).refusal = s.refusal := rfl
@[simp] theorem ended_events (rep : Report) (tr : List Traffic) : (s.ended rep tr).events = s.events := rfl
@[simp] theorem ended_report (rep : Report) (tr : List Traffic) : (s.ended rep tr).report = rep := rfl
@[simp] theorem ended_trace (rep : Report) (tr : List Traffic) : (s.ended rep tr).trace = s.trace ++ tr := rfl
@[simp] theorem ended_dataReg (rep : Report) (tr : List Traffic) : (s.ended rep tr).dataReg = s.dataReg := rfl
@[simp] theorem ended_lengthReg (rep : Report) (tr : List Traffic) : (s.ended rep tr).lengthReg = s.lengthReg := rfl
@[simp] theorem ended_baudReg (rep : Report) (tr : List Traffic) : (s.ended rep tr).baudReg = s.baudReg := rfl
@[simp] theorem ended_extClk (rep : Report) (tr : List Traffic) : (s.ended rep tr).extClk = s.extClk := rfl
@[simp] theorem ended_trigSrc (rep : Report) (tr : List Traffic) : (s.ended rep tr).trigSrc = s.trigSrc := rfl
@[simp] theorem ended_trigMod (rep : Report) (tr : List Traffic) : (s.ended rep tr).trigMod = s.trigMod := rfl
@[simp] theorem ended_ioRoute (rep : Report) (tr : List Traffic) : (s.ended rep tr).ioRoute = s.ioRoute := rfl
@[simp] theorem ended_ctlLatch (rep : Report) (tr : List Traffic) : (s.ended rep tr).ctlLatch = s.ctlLatch := rfl
@[simp] theorem ended_txd (rep : Report) (tr : List Traffic) : (s.ended rep tr).txd = s.txd := rfl
@[simp] theorem ended_rxd (rep : Report) (tr : List Traffic) : (s.ended rep tr).rxd = s.rxd := rfl
@[simp] theorem ended_nack (rep : Report) (tr : List Traffic) : (s.ended rep tr).nack = s.nack := rfl
@[simp] theorem ended_eng (rep : Report) (tr : List Traffic) : (s.ended rep tr).eng = s.eng := rfl
@[simp] theorem ended_bus (rep : Report) (tr : List Traffic) : (s.ended rep tr).bus = s.bus := rfl
@[simp] theorem ended_requests (rep : Report) (tr : List Traffic) : (s.ended rep tr).requests = s.requests := rfl
@[simp] theorem ended_link (rep : Report) (tr : List Traffic) : (s.ended rep tr).link = s.link := rfl
@[simp] theorem ended_caller (rep : Report) (tr : List Traffic) : (s.ended rep tr).caller = s.caller := rfl
@[simp] theorem ended_engine (rep : Report) (tr : List Traffic) : (s.ended rep tr).engine = s.engine := rfl
@[simp] theorem ended_noise (rep : Report) (tr : List Traffic) : (s.ended rep tr).noise = s.noise := rfl
@[simp] theorem ended_slave (rep : Report) (tr : List Traffic) : (s.ended rep tr).slave = s.slave := rfl

/-! `State.declined` -/

@[simp] theorem declined_cfg : (s.declined).cfg = s.cfg := rfl
@[simp] theorem declined_variant : (s.declined).variant = s.variant := rfl
@[simp] theorem declined_caps : (s.declined).caps = s.caps := rfl
@[simp] theorem declined_phase : (s.declined).phase = s.phase := rfl
@[simp] theorem declined_buf : (s.declined).buf = s.buf := rfl
@[simp] theorem declined_refused : (s.declined).refused = true := rfl
@[simp] theorem declined_refusal : (s.declined).refusal = s.refusal := rfl
@[simp] theorem declined_events : (s.declined).events = s.events := rfl
@[simp] theorem declined_report : (s.declined).report = .none := rfl
@[simp] theorem declined_trace : (s.declined).trace = s.trace := rfl
@[simp] theorem declined_dataReg : (s.declined).dataReg = s.dataReg := rfl
@[simp] theorem declined_lengthReg : (s.declined).lengthReg = s.lengthReg := rfl
@[simp] theorem declined_baudReg : (s.declined).baudReg = s.baudReg := rfl
@[simp] theorem declined_extClk : (s.declined).extClk = s.extClk := rfl
@[simp] theorem declined_trigSrc : (s.declined).trigSrc = s.trigSrc := rfl
@[simp] theorem declined_trigMod : (s.declined).trigMod = s.trigMod := rfl
@[simp] theorem declined_ioRoute : (s.declined).ioRoute = s.ioRoute := rfl
@[simp] theorem declined_ctlLatch : (s.declined).ctlLatch = s.ctlLatch := rfl
@[simp] theorem declined_txd : (s.declined).txd = s.txd := rfl
@[simp] theorem declined_rxd : (s.declined).rxd = s.rxd := rfl
@[simp] theorem declined_nack : (s.declined).nack = s.nack := rfl
@[simp] theorem declined_eng : (s.declined).eng = s.eng := rfl
@[simp] theorem declined_bus : (s.declined).bus = s.bus := rfl
@[simp] theorem declined_requests : (s.declined).requests = s.requests := rfl
@[simp] theorem declined_link : (s.declined).link = s.link := rfl
@[simp] theorem declined_caller : (s.declined).caller = s.caller := rfl
@[simp] theorem declined_engine : (s.declined).engine = s.engine := rfl
@[simp] theorem declined_noise : (s.declined).noise = s.noise := rfl
@[simp] theorem declined_slave : (s.declined).slave = s.slave := rfl

end Sys2Proof.Machine.State
end

