-- ==== Sys2Proof/Laws/Draws.lean ====
section
/-! SUPPORT. Draws: what is drawn next after some have been taken. -/

namespace Sys2Proof.Machine

@[simp] theorem Draws.look_skip {α : Type} (free : Nat → α) (d : Draws α) (n k : Nat) :
    (d.skip n).look free k = d.look free (n + k) := by
  simp [Draws.look, Draws.skip, Nat.add_assoc]

@[simp] theorem Draws.skip_skip {α : Type} (d : Draws α) (n k : Nat) : (d.skip n).skip k = d.skip (n + k) := by
  simp [Draws.skip, Nat.add_assoc]

@[simp] theorem Draws.skip_zero {α : Type} (d : Draws α) : d.skip 0 = d := by
  simp [Draws.skip]

/-- A scripted draw is the script's. -/
theorem Draws.look_script {α : Type} (free : Nat → α) (d : Draws α) (k : Nat) (x : α) (h : d.script[k]? = some x) :
    d.look free k = x := by
  simp [Draws.look, h]

end Sys2Proof.Machine
end

