-- ==== Sys2Proof/Laws/Ops.lean ====
section
/-! SUPPORT. What each shared operation can do, said once. -/

namespace Sys2Proof.Machine

variable (s : State) (op : Instr) (pc : Nat)

/-! Registers and the configuration -/

/-- The state with bs in configuration register a, for bytes of the register's width. -/
@[simp] theorem store_extClk (b : Byte) : s.store 38 [b] = { s with extClk := b } := rfl
@[simp] theorem store_trigSrc (b : Byte) : s.store 39 [b] = { s with trigSrc := b } := rfl
@[simp] theorem store_trigMod (b : Byte) : s.store 40 [b] = { s with trigMod := b } := rfl
@[simp] theorem store_control (c d e : Byte) : s.store 47 [c, d, e] = s.engineControlWrite ⟨c, d, e⟩ := rfl
@[simp] theorem store_txd (b : Byte) : s.store 48 [b] = s.transmitWrite b := rfl
@[simp] theorem store_ioRoute (bs : List Byte) : s.store 55 bs = { s with ioRoute := bs } := by
  match bs with
  | [] => rfl
  | [_] => rfl
  | [_, _] => rfl
  | [_, _, _] => rfl
  | _ :: _ :: _ :: _ :: _ => rfl

@[simp] theorem response_extClk : s.response 38 = ([s.extClk], 0) := rfl
@[simp] theorem response_trigSrc : s.response 39 = ([s.trigSrc], 0) := rfl
@[simp] theorem response_trigMod : s.response 40 = ([s.trigMod], 0) := rfl
@[simp] theorem response_status :
    s.response 47 = ([statusFirst s.nack s.eng (s.noiseAt 0), s.noiseAt 1, s.noiseAt 2], 3) := rfl
@[simp] theorem response_ioRoute : s.response 55 = (s.ioRoute, 0) := rfl

/-- R63's table. -/
theorem admitted_iff (p : Params) (a n : Nat) :
    admitted p a n = true ↔ (a = 38 ∧ n = 1) ∨ (a = 39 ∧ n = 1) ∨ (a = 40 ∧ n = 1) ∨ (a = 47 ∧ n = 3) ∨
      (a = 48 ∧ n = 1) ∨ (a = 55 ∧ n = p.ioRouteLen) := by
  have comm : ∀ x : Nat, (x = n) = (n = x) := fun x => propext eq_comm
  unfold admitted widthOf
  split <;> simp_all

@[simp] theorem admitted_extClk (p : Params) : admitted p 38 1 = true := rfl
@[simp] theorem admitted_trigSrc (p : Params) : admitted p 39 1 = true := rfl
@[simp] theorem admitted_trigMod (p : Params) : admitted p 40 1 = true := rfl
@[simp] theorem admitted_status (p : Params) : admitted p 47 3 = true := rfl
@[simp] theorem admitted_data (p : Params) : admitted p 48 1 = true := rfl
@[simp] theorem admitted_ioRoute (p : Params) : admitted p 55 p.ioRouteLen = true := by simp [admitted, widthOf]

/-! The code of an outcome (R91, R210) -/

@[simp] theorem code_none : Report.none.code = none := rfl
@[simp] theorem code_ok (r : Result) : (Report.ok r).code = some 0 := rfl
@[simp] theorem code_error (e : OpError) : (Report.error e).code = some e.code := rfl

/-- An error's code is one of 1 to 6: never OK's. -/
theorem OpError.code_range (e : OpError) : 1 ≤ e.code ∧ e.code ≤ 6 := by cases e <;> simp [OpError.code]

/-- The code tells an operation that returned from one that took an error. -/
theorem code_eq_zero_iff (r : Report) : r.code = some 0 ↔ ∃ v, r = .ok v := by
  cases r with
  | none => simp
  | ok v => simp
  | error e => simpa using Nat.ne_of_gt e.code_range.1

/-! The status word -/

/-- Bit 0 of the status word is the flag, where it is defined and the engine idle (R174). -/
@[simp] theorem statusFirst_bit_zero (n : Bool) (d : Byte) : (statusFirst (some n) .idle d).getLsbD 0 = n := by
  simp only [statusFirst, bitOf, BitVec.getLsbD_or, BitVec.getLsbD_and]
  cases n <;> simp

/-- A status word's check is the flag (R185 step 7). -/
@[simp] theorem nackSet_cons (b : Byte) (rest : List Byte) : nackSet (b :: rest) = b.getLsbD 0 := rfl

/-! The slave and the engine -/

/-- The answer of a well-behaved slave to a read (R50). -/
theorem slaveRead_wellBehaved {s : State} {a : Reg7} {f : Memory} (h : s.bus = .wellBehaved a f) (sla reg : Reg7) :
    s.slaveRead sla reg = if sla = a then (⟨true, Memory.read f reg.toNat⟩, s) else (⟨false, 0⟩, s) := by
  simp [State.slaveRead, h]

/-- The answer of a well-behaved slave to a write (R50). -/
theorem slaveWrite_wellBehaved {s : State} {a : Reg7} {f : Memory} (h : s.bus = .wellBehaved a f) (sla reg : Reg7)
    (d : Byte) : s.slaveWrite sla reg d =
      if sla = a then (true, { s with bus := .wellBehaved a (Memory.write f reg.toNat d) }) else (false, s) := by
  simp [State.slaveWrite, h]

/-- The completion step of an engine that is not busy is none. -/
theorem complete_of_not_busy {s : State} (h : ∀ t, s.eng ≠ .busy t) : s.complete = s := by
  unfold State.complete
  split
  · exact absurd ‹_› (h _)
  · rfl

@[simp] theorem complete_of_idle {s : State} (h : s.eng = .idle) : s.complete = s :=
  complete_of_not_busy (by simp [h])

@[simp] theorem complete_of_undefined {s : State} (h : s.eng = .undefined) : s.complete = s :=
  complete_of_not_busy (by simp [h])

/-- A read transaction completes (R173). -/
theorem complete_read {s : State} {t : Txn} (h : s.eng = .busy t) (hr : t.rw = .read) :
    s.complete = { (s.slaveRead t.sla t.reg).2 with
      nack := some (!(s.slaveRead t.sla t.reg).1.ack)
      rxd := if (s.slaveRead t.sla t.reg).1.ack then some (s.slaveRead t.sla t.reg).1.data else none
      eng := .idle } := by
  simp [State.complete, h, hr, nackAfter]

/-- A write transaction completes (R173). -/
theorem complete_write {s : State} {t : Txn} (h : s.eng = .busy t) (hr : t.rw = .write) :
    s.complete = { (s.slaveWrite t.sla t.reg t.data).2 with
      nack := some (!(s.slaveWrite t.sla t.reg t.data).1)
      eng := .idle } := by
  simp [State.complete, h, hr, nackAfter]

/-- A control WRITE without GO, the engine idle, only stores the word (R172). -/
theorem engineControlWrite_noGo {s : State} {w : ControlWord} (h : s.eng = .idle) (hg : w.go = false) :
    s.engineControlWrite w = { s with ctlLatch := some w } := by
  simp [State.engineControlWrite, h, hg]

/-- A rising edge of GO, the engine idle, starts a transaction (R172). -/
theorem engineControlWrite_rise {s : State} {w v : ControlWord} (h : s.eng = .idle) (hv : s.ctlLatch = some v)
    (hv' : v.go = false) (hg : w.go = true) :
    s.engineControlWrite w = { s with ctlLatch := some w, rxd := none, eng := .busy ⟨w.rw, w.sla, w.reg, s.txd⟩ } := by
  simp [State.engineControlWrite, h, hg, State.prevGo, State.noiseAfterPrevGo, hv, hv']

/-- A control WRITE to an engine that is not idle leaves it Undefined (R171, R177). -/
theorem engineControlWrite_not_idle {s : State} {w : ControlWord} (h : s.eng ≠ .idle) :
    s.engineControlWrite w = { s with ctlLatch := some w, eng := .undefined, bus := .lawless } := by
  unfold State.engineControlWrite State.undefineEngine
  split <;> simp_all

/-- A WRITE of the transmit byte, the engine idle (R101). -/
theorem transmitWrite_idle {s : State} (h : s.eng = .idle) (b : Byte) : s.transmitWrite b = { s with txd := b } := by
  simp [State.transmitWrite, h]

/-! One command -/

/-- A READ whose command completes. -/
theorem doRead_ok {s : State} {op : Instr} {pc a n : Nat} (ha : admitted s.cfg.params a n = true)
    (hl : s.linkFails 0 = false) :
    s.doRead op pc a n =
      { s with phase := .running op (pc + 1), buf := some (s.response a).1, link := s.link.skip 1,
               trace := s.trace ++ [.read a n (some (s.response a).1)], noise := s.noise.skip (s.response a).2 } := by
  simp [State.doRead, ha, State.readCommand, hl, State.record, State.moveTo]

/-- A READ whose command fails changes no register (R102). -/
theorem doRead_fail {s : State} {op : Instr} {pc a n : Nat} (ha : admitted s.cfg.params a n = true)
    (hl : s.linkFails 0 = true) :
    s.doRead op pc a n = State.raised { s with link := s.link.skip 1, trace := s.trace ++ [.read a n none] } op
      (.transportFailure a) := by
  simp [State.doRead, ha, State.readCommand, hl, State.record]

/-- A READ at an address or width that is not admitted is refused (R63, R65). -/
theorem doRead_refused {s : State} {op : Instr} {pc a n : Nat} (ha : admitted s.cfg.params a n = false) :
    s.doRead op pc a n = s.refusedIn op .commandAddress := by
  simp [State.doRead, ha]

/-- The state a WRITE's effect is applied to: its draw taken and its command in the trace. -/
def State.writing (s : State) (a : Nat) (v : List Byte) (completed : Bool) : State :=
  { s with link := s.link.skip 1, trace := s.trace ++ [.write a v completed] }

/-- A WRITE whose command completes. -/
theorem doWrite_ok {s : State} {op : Instr} {pc a : Nat} {v : List Byte} (ha : admitted s.cfg.params a v.length = true)
    (hv : payloadValid a v = true) (hl : s.linkFails 0 = false) :
    s.doWrite op pc a v = ((s.writing a v true).store a v).moveTo op (pc + 1) := by
  simp [State.doWrite, ha, hv, State.writeCommand, hl, State.writing, State.record]

/-- A WRITE whose command fails (R102). -/
theorem doWrite_fail {s : State} {op : Instr} {pc a : Nat} {v : List Byte} (ha : admitted s.cfg.params a v.length = true)
    (hv : payloadValid a v = true) (hl : s.linkFails 0 = true) :
    s.doWrite op pc a v = ((s.writing a v false).garble a v.length).raised op (.transportFailure a) := by
  simp [State.doWrite, ha, hv, State.writeCommand, hl, State.writing, State.record]

/-- Only a control word can be an invalid payload. -/
theorem payloadValid_of_ne {a : Nat} (h : a ≠ 47) (v : List Byte) : payloadValid a v = true := by
  unfold payloadValid
  split
  · exact absurd rfl h
  · rfl

/-- The control words of R84 are valid (R85). -/
@[simp] theorem controlWordOf_go_idle (rw : Direction) (sla reg : Reg7) :
    (controlWordOf rw sla reg ctlIdle).go = false := by simp [ControlWord.go, controlWordOf, ctlIdle]
@[simp] theorem controlWordOf_go_strobe (rw : Direction) (sla reg : Reg7) :
    (controlWordOf rw sla reg ctlStrobe).go = true := by simp [ControlWord.go, controlWordOf, ctlStrobe]

@[simp] theorem controlWordOf_rw (rw : Direction) (sla reg : Reg7) (g : Byte) : (controlWordOf rw sla reg g).rw = rw := by
  cases rw <;> simp [ControlWord.rw, controlWordOf]

@[simp] theorem controlWordOf_sla (rw : Direction) (sla reg : Reg7) (g : Byte) :
    (controlWordOf rw sla reg g).sla = sla := by
  apply BitVec.eq_of_getLsbD_eq
  intro j hj
  have h : j = 0 ∨ j = 1 ∨ j = 2 ∨ j = 3 ∨ j = 4 ∨ j = 5 ∨ j = 6 := by omega
  cases rw <;> rcases h with h | h | h | h | h | h | h <;> subst h <;> simp [ControlWord.sla, controlWordOf]

@[simp] theorem controlWordOf_reg (rw : Direction) (sla reg : Reg7) (g : Byte) :
    (controlWordOf rw sla reg g).reg = reg := by
  apply BitVec.eq_of_getLsbD_eq
  intro j hj
  have h : j = 0 ∨ j = 1 ∨ j = 2 ∨ j = 3 ∨ j = 4 ∨ j = 5 ∨ j = 6 := by omega
  rcases h with h | h | h | h | h | h | h <;> subst h <;> simp [ControlWord.reg, controlWordOf]

/-- The bytes of a control word of R84. -/
theorem controlWordOf_bytes (rw : Direction) (sla reg : Reg7) (g : Byte) :
    (controlWordOf rw sla reg g).bytes = [g, slaveByte rw sla, registerByte reg] := by
  cases rw <;> simp [ControlWord.bytes, controlWordOf, slaveByte, registerByte]

/-! How an operation ends -/

@[simp] theorem restPhase_ok (op : Instr) : restPhase op true = .idle := by
  cases op <;> rfl

/-- Every operation but INIT leaves the sequencer idle. -/
theorem restPhase_of_not_init {op : Instr} (h : ∀ v, op ≠ .init v) (ok : Bool) : restPhase op ok = .idle := by
  cases op <;> first | rfl | exact absurd rfl (h _)

/-- An operation never leaves the sequencer running. -/
theorem restPhase_ne_running (op : Instr) (ok : Bool) (i : Instr) (k : Nat) : restPhase op ok ≠ .running i k := by
  cases op <;> cases ok <;> simp [restPhase]

/-- Every operation but PLL_IS_PRESENT reports the error it met (R214). -/
theorem reportOf_of_not_probe {op : Instr} (h : op ≠ .pllIsPresent) (p : Params) (e : OpError) :
    reportOf p op e = .error e := by
  cases op <;> first | rfl | exact absurd rfl h

end Sys2Proof.Machine
end

