-- ==== Sys2Proof/Laws/Frames.lean ====
section
/-! SUPPORT. What no operation changes, for the engine, the commands and the primitives in turn. -/

namespace Sys2Proof.Machine

/-- What every operation leaves alone or moves one way only, from s to t: the parameters, the profile, the caller's other
requests, the registers without an operation and the sequencer's phase are the same; the refusal mark stays set; an engine
that is Undefined stays so; the command trace grows. -/
structure Steady (s t : State) : Prop where
  cfg : t.cfg = s.cfg
  variant : t.variant = s.variant
  caps : t.caps = s.caps
  requests : t.requests = s.requests
  dataReg : t.dataReg = s.dataReg
  lengthReg : t.lengthReg = s.lengthReg
  baudReg : t.baudReg = s.baudReg
  refused : s.refused = true → t.refused = true
  undefinedStays : s.eng = .undefined → t.eng = .undefined
  trace : ∃ tr, t.trace = s.trace ++ tr

theorem Steady.refl (s : State) : Steady s s :=
  ⟨rfl, rfl, rfl, rfl, rfl, rfl, rfl, id, id, [], by simp⟩

theorem Steady.trans {s t u : State} (h : Steady s t) (h' : Steady t u) : Steady s u := by
  obtain ⟨tr, htr⟩ := h.trace
  obtain ⟨tr', htr'⟩ := h'.trace
  exact ⟨h'.cfg.trans h.cfg, h'.variant.trans h.variant, h'.caps.trans h.caps, h'.requests.trans h.requests,
    h'.dataReg.trans h.dataReg, h'.lengthReg.trans h.lengthReg, h'.baudReg.trans h.baudReg,
    fun x => h'.refused (h.refused x), fun x => h'.undefinedStays (h.undefinedStays x),
    tr ++ tr', by rw [htr', htr, List.append_assoc]⟩

/-- What a command or the engine changes besides registers: nothing of the sequencer but the command trace. -/
structure Quiet (s t : State) : Prop extends Steady s t where
  phase : t.phase = s.phase
  buf : t.buf = s.buf
  events : t.events = s.events
  report : t.report = s.report
  refusedSame : t.refused = s.refused

theorem Quiet.refl (s : State) : Quiet s s := ⟨Steady.refl s, rfl, rfl, rfl, rfl, rfl⟩

theorem Quiet.trans {s t u : State} (h : Quiet s t) (h' : Quiet t u) : Quiet s u :=
  ⟨h.toSteady.trans h'.toSteady, h'.phase.trans h.phase, h'.buf.trans h.buf, h'.events.trans h.events,
    h'.report.trans h.report, h'.refusedSame.trans h.refusedSame⟩

/-- A change of nothing but registers, engine and draws, the engine staying Undefined where it is, is quiet. -/
theorem Quiet.of_eq {s t : State} (hs : t.specPart = { s.specPart with
      extClk := t.extClk, trigSrc := t.trigSrc, trigMod := t.trigMod, ioRoute := t.ioRoute, ctlLatch := t.ctlLatch,
      txd := t.txd, rxd := t.rxd, nack := t.nack, eng := t.eng, bus := t.bus })
    (hb : t.buf = s.buf) (he : s.eng = .undefined → t.eng = .undefined) : Quiet s t := by
  have key : ∀ {α : Type} (f : State → α), f t.specPart = f { s.specPart with
      extClk := t.extClk, trigSrc := t.trigSrc, trigMod := t.trigMod, ioRoute := t.ioRoute, ctlLatch := t.ctlLatch,
      txd := t.txd, rxd := t.rxd, nack := t.nack, eng := t.eng, bus := t.bus } := fun f => congrArg f hs
  exact ⟨⟨key (·.cfg), key (·.variant), key (·.caps), key (·.requests), key (·.dataReg), key (·.lengthReg),
      key (·.baudReg), fun h => (key (·.refused)).trans h, he, [], (key (·.trace)).trans (List.append_nil _).symm⟩,
    key (·.phase), hb, key (·.events), key (·.report), key (·.refused)⟩

theorem slaveWrite_quiet (s : State) (sla reg : Reg7) (d : Byte) :
    Quiet s (s.slaveWrite sla reg d).2 ∧ (s.slaveWrite sla reg d).2.eng = s.eng := by
  unfold State.slaveWrite
  split
  · exact ⟨Quiet.of_eq rfl rfl id, rfl⟩
  · split
    · exact ⟨Quiet.of_eq rfl rfl id, rfl⟩
    · exact ⟨Quiet.refl s, rfl⟩

theorem slaveRead_quiet (s : State) (sla reg : Reg7) :
    Quiet s (s.slaveRead sla reg).2 ∧ (s.slaveRead sla reg).2.eng = s.eng := by
  unfold State.slaveRead
  split
  · exact ⟨Quiet.of_eq rfl rfl id, rfl⟩
  · split
    · exact ⟨Quiet.refl s, rfl⟩
    · exact ⟨Quiet.refl s, rfl⟩

theorem undefineEngine_quiet (s : State) : Quiet s s.undefineEngine := Quiet.of_eq rfl rfl (fun _ => rfl)

theorem complete_quiet (s : State) : Quiet s s.complete := by
  unfold State.complete
  split
  · rename_i t h
    split
    · exact (slaveWrite_quiet s t.sla t.reg t.data).1.trans
        (Quiet.of_eq rfl rfl (fun e => by rw [(slaveWrite_quiet s t.sla t.reg t.data).2, h] at e; cases e))
    · exact (slaveRead_quiet s t.sla t.reg).1.trans
        (Quiet.of_eq rfl rfl (fun e => by rw [(slaveRead_quiet s t.sla t.reg).2, h] at e; cases e))
  · exact Quiet.refl s

theorem engineControlWrite_quiet (s : State) (w : ControlWord) : Quiet s (s.engineControlWrite w) := by
  unfold State.engineControlWrite
  split
  · exact Quiet.of_eq rfl rfl (fun _ => rfl)
  · exact Quiet.of_eq rfl rfl (fun _ => rfl)
  · rename_i h
    have : s.eng ≠ .undefined := by simp [h]
    split
    · split
      · exact Quiet.of_eq rfl rfl id
      · exact Quiet.of_eq rfl rfl (fun e => absurd e this)
    · exact Quiet.of_eq rfl rfl id

theorem transmitWrite_quiet (s : State) (b : Byte) : Quiet s (s.transmitWrite b) := by
  unfold State.transmitWrite
  split
  · exact Quiet.of_eq rfl rfl id
  · exact Quiet.of_eq rfl rfl (fun _ => rfl)

theorem store_quiet (s : State) (a : Nat) (v : List Byte) : Quiet s (s.store a v) := by
  unfold State.store
  split
  · exact Quiet.of_eq rfl rfl id
  · exact Quiet.of_eq rfl rfl id
  · exact Quiet.of_eq rfl rfl id
  · exact engineControlWrite_quiet s _
  · exact transmitWrite_quiet s _
  · exact Quiet.of_eq rfl rfl id
  · exact Quiet.refl s

theorem garble_quiet (s : State) (a n : Nat) : Quiet s (s.garble a n) := by
  unfold State.garble
  split
  · exact Quiet.of_eq rfl rfl id
  · exact Quiet.of_eq rfl rfl id
  · exact Quiet.of_eq rfl rfl id
  · exact Quiet.of_eq rfl rfl (fun _ => rfl)
  · exact Quiet.of_eq rfl rfl id
  · exact Quiet.of_eq rfl rfl id
  · exact Quiet.refl s

theorem record_quiet (s : State) (x : Traffic) : Quiet s (s.record x) :=
  ⟨⟨rfl, rfl, rfl, rfl, rfl, rfl, rfl, id, id, [x], rfl⟩, rfl, rfl, rfl, rfl, rfl⟩

theorem readCommand_quiet (s : State) (a n : Nat) : Quiet s (s.readCommand a n).2 := by
  have h : Quiet s { s with link := s.link.skip 1 } := Quiet.of_eq rfl rfl id
  unfold State.readCommand
  split
  · exact h.trans (record_quiet _ _)
  · exact (h.trans (record_quiet _ _)).trans (Quiet.of_eq rfl rfl id)

theorem writeCommand_quiet (s : State) (a : Nat) (v : List Byte) : Quiet s (s.writeCommand a v).2 := by
  have h : Quiet s { s with link := s.link.skip 1 } := Quiet.of_eq rfl rfl id
  unfold State.writeCommand
  split
  · exact (h.trans (record_quiet _ _)).trans (garble_quiet _ _ _)
  · exact (h.trans (record_quiet _ _)).trans (store_quiet _ _ _)

/-! The primitives -/

theorem moveTo_steady (s : State) (op : Instr) (pc : Nat) : Steady s (s.moveTo op pc) :=
  ⟨rfl, rfl, rfl, rfl, rfl, rfl, rfl, id, id, [], by simp⟩

theorem returned_steady (s : State) (op : Instr) (r : Result) : Steady s (s.returned op r) :=
  ⟨rfl, rfl, rfl, rfl, rfl, rfl, rfl, id, id, [], by simp⟩

theorem raised_steady (s : State) (op : Instr) (e : OpError) : Steady s (s.raised op e) :=
  ⟨rfl, rfl, rfl, rfl, rfl, rfl, rfl, id, id, [], by simp⟩

theorem refuse_steady (s : State) (r : RefusalReason) : Steady s (s.refuse r) :=
  ⟨rfl, rfl, rfl, rfl, rfl, rfl, rfl, fun _ => rfl, id, [], by simp⟩

theorem refusedIn_steady (s : State) (op : Instr) (r : RefusalReason) : Steady s (s.refusedIn op r) :=
  ⟨rfl, rfl, rfl, rfl, rfl, rfl, rfl, fun _ => rfl, id, [], by simp⟩

theorem abandoned_steady (s : State) (op : Instr) : Steady s (s.abandoned op) :=
  ⟨rfl, rfl, rfl, rfl, rfl, rfl, rfl, id, fun _ => rfl, [], by simp⟩

theorem emitted_steady (s : State) (lock : Bool) : Steady s (s.emitted lock) :=
  ⟨rfl, rfl, rfl, rfl, rfl, rfl, rfl, id, id, [], by simp⟩

theorem accept_steady (s : State) (op : Instr) : Steady s (s.accept op) :=
  ⟨rfl, rfl, rfl, rfl, rfl, rfl, rfl, id, id, [], by simp⟩

theorem buf_steady (s : State) (b : Option (List Byte)) : Steady s { s with buf := b } :=
  ⟨rfl, rfl, rfl, rfl, rfl, rfl, rfl, id, id, [], by simp⟩

/-- The primitives after which an operation has ended. -/
def Act.ends : Act → Bool
  | .ret _ => true
  | .raise _ => true
  | .refuse _ => true
  | _ => false

/-- The primitives that write `buf`. -/
def Act.reads : Act → Bool
  | .read _ _ => true
  | .status _ _ => true
  | _ => false

/-- The step that follows a primitive. -/
def Act.target (pc : Nat) : Act → Nat
  | .jump k => k
  | _ => pc + 1

/-- What a primitive other than `emit` and the three that end an operation leaves: it goes on to step pc + 1 (or where it
jumps) with `buf` written by a READ and else kept; or the operation has ended. Events are as before. -/
structure Moved (op : Instr) (pc : Nat) (s t : State) (reads : Bool) : Prop where
  steady : Steady s t
  events : t.events = s.events
  goesOn : (t.phase = .running op (pc + 1) ∧ ((s.buf.isSome = true ∨ reads = true) → t.buf.isSome = true)) ∨ t.AtRest

theorem atRest_of_restPhase {t : State} {op : Instr} {ok : Bool} (h : t.phase = restPhase op ok) : t.AtRest :=
  fun i k => h ▸ restPhase_ne_running op ok i k

theorem doRead_moved (s : State) (op : Instr) (pc a n : Nat) : Moved op pc s (s.doRead op pc a n) true := by
  have h := readCommand_quiet s a n
  unfold State.doRead
  split
  · split
    · rename_i bs t e
      rw [e] at h
      exact ⟨(h.toSteady.trans (buf_steady _ _)).trans (moveTo_steady _ _ _), h.events, .inl ⟨rfl, fun _ => rfl⟩⟩
    · rename_i t e
      rw [e] at h
      exact ⟨h.toSteady.trans (raised_steady _ _ _), h.events, .inr (atRest_of_restPhase rfl)⟩
  · exact ⟨refusedIn_steady _ _ _, rfl, .inr (atRest_of_restPhase rfl)⟩

theorem doWrite_moved (s : State) (op : Instr) (pc a : Nat) (v : List Byte) :
    Moved op pc s (s.doWrite op pc a v) false := by
  have h := writeCommand_quiet s a v
  unfold State.doWrite
  split
  · split
    · split
      · rename_i t e
        rw [e] at h
        exact ⟨h.toSteady.trans (moveTo_steady _ _ _), h.events, 
          .inl ⟨rfl, fun hb => (congrArg Option.isSome (show t.buf = s.buf from h.buf)).trans (hb.resolve_right nofun)⟩⟩
      · rename_i t e
        rw [e] at h
        exact ⟨h.toSteady.trans (raised_steady _ _ _), h.events, .inr (atRest_of_restPhase rfl)⟩
    · exact ⟨refusedIn_steady _ _ _, rfl, .inr (atRest_of_restPhase rfl)⟩
  · exact ⟨refusedIn_steady _ _ _, rfl, .inr (atRest_of_restPhase rfl)⟩

theorem doControl_moved (s : State) (op : Instr) (pc : Nat) (w : ControlWord) :
    Moved op pc s (s.doControl op pc w) false := by
  have h := writeCommand_quiet s 47 w.bytes
  unfold State.doControl
  split
  · rename_i t e
    rw [e] at h
    exact ⟨h.toSteady.trans (moveTo_steady _ _ _), h.events, 
          .inl ⟨rfl, fun hb => (congrArg Option.isSome (show t.buf = s.buf from h.buf)).trans (hb.resolve_right nofun)⟩⟩
  · rename_i t e
    rw [e] at h
    exact ⟨h.toSteady.trans (raised_steady _ _ _), h.events, .inr (atRest_of_restPhase rfl)⟩

theorem doWait_moved (s : State) (op : Instr) (pc : Nat) : Moved op pc s (s.doWait op pc) false := by
  have h := (complete_quiet s).trans (record_quiet s.complete .wait)
  exact ⟨h.toSteady.trans (moveTo_steady _ _ _), h.events, .inl ⟨rfl, by simp [State.doWait, (complete_quiet s).buf]⟩⟩

theorem doStatus_moved (s : State) (op : Instr) (pc : Nat) (sla reg : Reg7) :
    Moved op pc s (s.doStatus op pc sla reg) true := by
  have h := readCommand_quiet s 47 3
  unfold State.doStatus
  split
  · rename_i bs t e
    rw [e] at h
    split
    · exact ⟨h.toSteady.trans (raised_steady _ _ _), h.events, .inr (atRest_of_restPhase rfl)⟩
    · exact ⟨(h.toSteady.trans (buf_steady _ _)).trans (moveTo_steady _ _ _), h.events, .inl ⟨rfl, fun _ => rfl⟩⟩
  · rename_i t e
    rw [e] at h
    exact ⟨h.toSteady.trans (raised_steady _ _ _), h.events, .inr (atRest_of_restPhase rfl)⟩

theorem unlessAbandoned_moved (s : State) (op : Instr) (pc : Nat) (inside reads : Bool) (k : State → State)
    (hk : ∀ t, Moved op pc t (k t) reads) : Moved op pc s (s.unlessAbandoned op inside k) reads := by
  have h : Quiet s { s with caller := s.caller.skip 1 } := Quiet.of_eq rfl rfl id
  unfold State.unlessAbandoned
  split
  · simp only
    split
    · exact ⟨h.toSteady.trans (abandoned_steady _ _), rfl, .inr (atRest_of_restPhase rfl)⟩
    · have hk := hk { s with caller := s.caller.skip 1 }
      exact ⟨h.toSteady.trans hk.steady, hk.events, hk.goesOn⟩
  · exact hk s

/-! One primitive -/

/-- Every primitive but a stale use of `buf` has a next state. -/
theorem perform_next (op : Instr) (pc : Nat) (a : Act) (s : State) (h : a ≠ .stale) : ∃ t, perform op pc a s = .next t := by
  cases a <;> first | exact ⟨_, rfl⟩ | exact absurd rfl h

/-- What a primitive leaves alone. -/
theorem perform_steady {op : Instr} {pc : Nat} {a : Act} {s t : State} (h : perform op pc a s = .next t) : Steady s t := by
  cases a with
  | read addr len => cases h; exact (doRead_moved s op pc addr len).steady
  | write addr v => cases h; exact (doWrite_moved s op pc addr v).steady
  | control inside w => cases h; exact (unlessAbandoned_moved s op pc inside false _ (fun t => doControl_moved t op pc w)).steady
  | wait inside => cases h; exact (unlessAbandoned_moved s op pc inside false _ (fun t => doWait_moved t op pc)).steady
  | status sla reg => cases h; exact (doStatus_moved s op pc sla reg).steady
  | emit lock => cases h; exact (emitted_steady s lock).trans (moveTo_steady _ _ _)
  | jump k => cases h; exact moveTo_steady _ _ _
  | ret r => cases h; exact returned_steady _ _ _
  | raise e => cases h; exact raised_steady _ _ _
  | refuse r => cases h; exact refusedIn_steady _ _ _
  | stale => cases h

/-- Only `emit` adds an event. -/
theorem perform_events {op : Instr} {pc : Nat} {a : Act} {s t : State} (h : perform op pc a s = .next t) :
    t.events = match a with | .emit lock => s.events ++ [⟨lock⟩] | _ => s.events := by
  cases a with
  | read addr len => cases h; exact (doRead_moved s op pc addr len).events
  | write addr v => cases h; exact (doWrite_moved s op pc addr v).events
  | control inside w => cases h; exact (unlessAbandoned_moved s op pc inside false _ (fun t => doControl_moved t op pc w)).events
  | wait inside => cases h; exact (unlessAbandoned_moved s op pc inside false _ (fun t => doWait_moved t op pc)).events
  | status sla reg => cases h; exact (doStatus_moved s op pc sla reg).events
  | emit lock => cases h; rfl
  | jump k => cases h; rfl
  | ret r => cases h; rfl
  | raise e => cases h; rfl
  | refuse r => cases h; rfl
  | stale => cases h

/-- Where a primitive goes: the next step, or where it jumps, of the same operation, which then has not ended, with `buf`
written by a READ and else kept; or to rest. -/
theorem perform_goes {op : Instr} {pc : Nat} {a : Act} {s t : State} (h : perform op pc a s = .next t) :
    (∃ k, t.phase = .running op k ∧ a.ends = false ∧ k = a.target pc ∧
      ((s.buf.isSome = true ∨ a.reads = true) → t.buf.isSome = true)) ∨ t.AtRest := by
  have moved : ∀ {r : Bool} {u : State}, Moved op pc s u r → a.ends = false → a.target pc = pc + 1 → a.reads = r →
      perform op pc a s = .next u →
      (∃ k, t.phase = .running op k ∧ a.ends = false ∧ k = a.target pc ∧
        ((s.buf.isSome = true ∨ a.reads = true) → t.buf.isSome = true)) ∨ t.AtRest := by
    intro r u hu he hk hr hp
    rw [h] at hp
    cases hp
    rcases hu.goesOn with ⟨h1, h2⟩ | h1
    · exact .inl ⟨pc + 1, h1, he, hk.symm, hr ▸ h2⟩
    · exact .inr h1
  cases a with
  | read addr len => exact moved (doRead_moved s op pc addr len) rfl rfl rfl rfl
  | write addr v => exact moved (doWrite_moved s op pc addr v) rfl rfl rfl rfl
  | control inside w =>
    exact moved (unlessAbandoned_moved s op pc inside false _ (fun t => doControl_moved t op pc w)) rfl rfl rfl rfl
  | wait inside => exact moved (unlessAbandoned_moved s op pc inside false _ (fun t => doWait_moved t op pc)) rfl rfl rfl rfl
  | status sla reg => exact moved (doStatus_moved s op pc sla reg) rfl rfl rfl rfl
  | emit lock => cases h; exact .inl ⟨pc + 1, rfl, rfl, rfl, by simp [Act.reads]⟩
  | jump k => cases h; exact .inl ⟨k, rfl, rfl, rfl, by simp [Act.reads]⟩
  | ret r => cases h; exact .inr (atRest_of_restPhase rfl)
  | raise e => cases h; exact .inr (atRest_of_restPhase rfl)
  | refuse r => cases h; exact .inr (atRest_of_restPhase rfl)
  | stale => cases h

end Sys2Proof.Machine
end

