-- ==== Sys2Proof/Laws/Drive.lean ====
section
/-! SUPPORT. Running an operation: unrolling, invariants, the end of every run, and the two shapes most operations have (a
READ then a result; a READ, a WRITE, a result). -/

namespace Sys2Proof.Machine

/-! Unrolling -/

/-- One primitive of an operation in progress. -/
theorem drive_running {body : State → Nat → Act} {n : Nat} {s t : State} {op : Instr} {pc : Nat}
    (hp : s.phase = .running op pc) (h : perform op pc (body s pc) s = .next t) :
    drive body (n + 1) s = drive body n t := by
  simp [drive, hp, h]

/-- An operation that has ended. -/
theorem drive_atRest {body : State → Nat → Act} {n : Nat} {s : State} (h : s.AtRest) : drive body n s = .next s := by
  cases n with
  | zero => rfl
  | succ n =>
    unfold drive
    split
    · exact absurd ‹_› (h _ _)
    · rfl

/-- A request other than INIT to an idle block (R27). -/
theorem request_idle {op : Instr} {body : State → Nat → Act} {s : State} (h : s.phase = .idle) :
    request op body s = drive body opFuel (s.accept op) := by
  simp [request, h]

/-- A request other than INIT before construction (R25). -/
theorem request_unconstructed {op : Instr} {body : State → Nat → Act} {s : State} (h : s.phase = .unconstructed) :
    request op body s = .next (s.refuse .unconstructed) := by
  simp [request, h]

/-- A request while an operation runs (R26). -/
theorem request_running {op i : Instr} {pc : Nat} {body : State → Nat → Act} {s : State}
    (h : s.phase = .running i pc) : request op body s = .next s := by
  simp [request, h]

/-- The first primitive of an accepted request ends it. -/
theorem request_ends {op : Instr} {body : State → Nat → Act} {s t : State} (h : s.phase = .idle)
    (hp : perform op 0 (body (s.accept op) 0) (s.accept op) = .next t) (ht : t.AtRest) :
    request op body s = .next t := by
  rw [request_idle h, show opFuel = 63 + 1 from rfl, drive_running rfl hp, drive_atRest ht]

/-- An accepted request raises an error before its first command. -/
theorem request_raises {op : Instr} {body : State → Nat → Act} {s : State} {e : OpError} (h : s.phase = .idle)
    (hb : body (s.accept op) 0 = .raise e) : request op body s = .next ((s.accept op).raised op e) :=
  request_ends h (by rw [hb]; rfl) (atRest_of_restPhase rfl)

/-- An accepted request is refused before its first command. -/
theorem request_refuses {op : Instr} {body : State → Nat → Act} {s : State} {r : RefusalReason} (h : s.phase = .idle)
    (hb : body (s.accept op) 0 = .refuse r) : request op body s = .next ((s.accept op).refusedIn op r) :=
  request_ends h (by rw [hb]; rfl) (atRest_of_restPhase rfl)

/-! Invariants -/

/-- What every primitive of an operation keeps, the whole operation keeps. -/
theorem drive_keeps {body : State → Nat → Act} {P : State → Prop}
    (hstep : ∀ {s t : State} {op : Instr} {pc : Nat}, P s → s.phase = .running op pc →
      perform op pc (body s pc) s = .next t → P t) :
    ∀ {n : Nat} {s t : State}, P s → drive body n s = .next t → P t
  | 0, s, t, hs, h => by cases h; exact hs
  | n + 1, s, t, hs, h => by
    unfold drive at h
    split at h
    · rename_i op pc hp
      split at h
      · exact drive_keeps @hstep (hstep hs hp ‹_›) h
      · rename_i o hno
        exact absurd h (hno t)
    · cases h; exact hs

/-- What an operation leaves alone. -/
theorem drive_steady {body : State → Nat → Act} {n : Nat} {s t : State} (h : drive body n s = .next t) : Steady s t :=
  drive_keeps (P := Steady s) (fun hs _ hp => hs.trans (perform_steady hp)) (Steady.refl s) h

/-- What a request leaves alone. -/
theorem request_steady {op : Instr} {body : State → Nat → Act} {s t : State} (h : request op body s = .next t) :
    Steady s t := by
  unfold request at h
  split at h
  · cases h; exact Steady.refl s
  · cases h; exact refuse_steady _ _
  · exact (accept_steady s op).trans (drive_steady h)

/-- An operation whose body emits nothing adds no event. -/
theorem drive_events {body : State → Nat → Act} (hb : ∀ s pc lock, body s pc ≠ .emit lock) {n : Nat} {s t : State}
    (h : drive body n s = .next t) : t.events = s.events := by
  refine drive_keeps (P := fun u => u.events = s.events) (fun {u v op pc} hu _ hp => ?_) rfl h
  rw [perform_events hp]
  split
  · exact absurd ‹_› (hb _ _ _)
  · exact hu

/-- The same of a request. -/
theorem request_events {op : Instr} {body : State → Nat → Act} (hb : ∀ s pc lock, body s pc ≠ .emit lock) {s t : State}
    (h : request op body s = .next t) : t.events = s.events := by
  unfold request at h
  split at h
  · cases h; rfl
  · cases h; rfl
  · rw [drive_events hb h]; rfl

/-! Every operation ends (spec/60_exceptions.md R222) -/

/-- The shape of an operation's body: from step `last` on it only ends; it jumps forward; where it uses `buf` (at the steps
`needsBuf` names) every way there has passed a READ. -/
structure Bounded (body : State → Nat → Act) (needsBuf : Nat → Bool) (last : Nat) : Prop where
  fresh : ∀ s pc, (needsBuf pc = true → s.buf.isSome = true) → body s pc ≠ .stale
  ends : ∀ s pc, last ≤ pc → (body s pc).ends = true ∨ body s pc = .stale
  forward : ∀ s pc, pc < (body s pc).target pc
  read : ∀ s pc, needsBuf ((body s pc).target pc) = true → needsBuf pc = true ∨ (body s pc).reads = true ∨
    (body s pc).ends = true

/-- A bounded body runs to its end, never on a stale `buf`. -/
theorem Bounded.drive {body : State → Nat → Act} {needsBuf : Nat → Bool} {last : Nat} (hb : Bounded body needsBuf last)
    (n : Nat) (s : State) (op : Instr) (pc : Nat) (hp : s.phase = .running op pc)
    (hbuf : needsBuf pc = true → s.buf.isSome = true) (hn : last - pc < n) :
    ∃ t, Machine.drive body n s = .next t ∧ t.AtRest := by
  induction n generalizing s pc with
  | zero => omega
  | succ n ih =>
    obtain ⟨t, ht⟩ := perform_next op pc (body s pc) s (hb.fresh s pc hbuf)
    rw [drive_running hp ht]
    rcases perform_goes ht with ⟨k, hk, hne, rfl, hbs⟩ | hr
    · have hpc : pc < last := by
        by_contra hc
        rcases hb.ends s pc (by omega) with h | h
        · rw [h] at hne; cases hne
        · exact hb.fresh s pc hbuf h
      refine ih t _ hk (fun h => hbs ?_) (by have := hb.forward s pc; omega)
      rcases hb.read s pc h with h | h | h
      · exact .inl (hbuf h)
      · exact .inr h
      · rw [h] at hne; cases hne
    · exact ⟨t, drive_atRest hr, hr⟩

/-- A request with a bounded body ends at rest, in a next state, from every state where no operation is in progress. -/
theorem Bounded.request {body : State → Nat → Act} {needsBuf : Nat → Bool} {last : Nat} (hb : Bounded body needsBuf last)
    (h0 : needsBuf 0 = false) (hl : last < opFuel) (op : Instr) (s : State) (hs : s.AtRest) :
    ∃ t, Machine.request op body s = .next t ∧ t.AtRest := by
  cases hp : s.phase with
  | unconstructed => exact ⟨_, request_unconstructed hp, by simp [State.AtRest, hp]⟩
  | running i k => exact absurd hp (hs i k)
  | idle =>
    rw [request_idle hp]
    exact hb.drive opFuel _ op 0 rfl (by simp [h0]) (by omega)

/-! The two shapes of a register operation -/

/-- The state after an accepted request's first READ. -/
def State.afterRead (s : State) (op : Instr) (a n : Nat) : State :=
  { s with phase := .running op 1, buf := some (s.response a).1, report := .none, link := s.link.skip 1,
           trace := s.trace ++ [.read a n (some (s.response a).1)], noise := s.noise.skip (s.response a).2 }

/-- An operation that begins with a READ: where the READ completes it goes on at step 1. -/
theorem request_read {op : Instr} {body : State → Nat → Act} {s : State} {a n : Nat} (hi : s.phase = .idle)
    (ha : admitted s.cfg.params a n = true) (h0 : body (s.accept op) 0 = .read a n) (hl : s.linkFails 0 = false) :
    request op body s = drive body 63 (s.afterRead op a n) := by
  rw [request_idle hi, show opFuel = 63 + 1 from rfl]
  refine drive_running (op := op) (pc := 0) rfl ?_
  rw [h0]
  exact congrArg Host.Outcome.next (doRead_ok (s := s.accept op) ha hl)

/-- An operation that begins with a READ ends where the READ fails (R102, R211). -/
theorem request_read_fails {op : Instr} {body : State → Nat → Act} {s : State} {a n : Nat} (hi : s.phase = .idle)
    (ha : admitted s.cfg.params a n = true) (h0 : body (s.accept op) 0 = .read a n) (hl : s.linkFails 0 = true) :
    request op body s = .next (State.raised
      { s.accept op with link := s.link.skip 1, trace := s.trace ++ [.read a n none] } op (.transportFailure a)) := by
  refine request_ends hi ?_ (atRest_of_restPhase rfl)
  rw [h0]
  exact congrArg Host.Outcome.next (doRead_fail (s := s.accept op) ha hl)

/-- A register getter: one READ, then its result. -/
theorem request_getter {op : Instr} {body : State → Nat → Act} {s : State} {a n : Nat} {r : Result} (hi : s.phase = .idle)
    (ha : admitted s.cfg.params a n = true) (h0 : body (s.accept op) 0 = .read a n) (hl : s.linkFails 0 = false)
    (h1 : body (s.afterRead op a n) 1 = .ret r) :
    request op body s = .next ((s.afterRead op a n).returned op r) := by
  rw [request_read hi ha h0 hl, show (63 : Nat) = 62 + 1 from rfl]
  rw [drive_running (op := op) (pc := 1) (t := (s.afterRead op a n).returned op r) rfl (by rw [h1]; rfl)]
  exact drive_atRest (atRest_of_restPhase rfl)

/-- An operation that raises an error after its READ has shown it the register (R212: PinModeMismatch). -/
theorem request_read_raises {op : Instr} {body : State → Nat → Act} {s : State} {a n : Nat} {e : OpError}
    (hi : s.phase = .idle) (ha : admitted s.cfg.params a n = true) (h0 : body (s.accept op) 0 = .read a n)
    (hl : s.linkFails 0 = false) (h1 : body (s.afterRead op a n) 1 = .raise e) :
    request op body s = .next ((s.afterRead op a n).raised op e) := by
  rw [request_read hi ha h0 hl, show (63 : Nat) = 62 + 1 from rfl]
  rw [drive_running (op := op) (pc := 1) (t := (s.afterRead op a n).raised op e) rfl (by rw [h1]; rfl)]
  exact drive_atRest (atRest_of_restPhase rfl)

/-- A register setter whose WRITE completes: one READ, one WRITE, no result (R103). -/
theorem request_setter {op : Instr} {body : State → Nat → Act} {s : State} {a n : Nat} {v : List Byte}
    (hi : s.phase = .idle) (ha : admitted s.cfg.params a n = true) (hv : admitted s.cfg.params a v.length = true)
    (hne : a ≠ 47) (h0 : body (s.accept op) 0 = .read a n) (hl : s.linkFails 0 = false) (hl1 : s.linkFails 1 = false)
    (h1 : body (s.afterRead op a n) 1 = .write a v)
    (h2 : body ((((s.afterRead op a n).writing a v true).store a v).moveTo op 2) 2 = .ret .nothing) :
    request op body s =
      .next (((((s.afterRead op a n).writing a v true).store a v).moveTo op 2).returned op .nothing) := by
  have hl1' : (s.afterRead op a n).linkFails 0 = false := by simpa [State.linkFails, State.afterRead] using hl1
  rw [request_read hi ha h0 hl, show (63 : Nat) = 61 + 1 + 1 from rfl]
  rw [drive_running (op := op) (pc := 1) (t := (((s.afterRead op a n).writing a v true).store a v).moveTo op 2) rfl
    (by rw [h1]; exact congrArg Host.Outcome.next (doWrite_ok (s := s.afterRead op a n) hv (payloadValid_of_ne hne v) hl1'))]
  rw [drive_running (op := op) (pc := 2)
    (t := ((((s.afterRead op a n).writing a v true).store a v).moveTo op 2).returned op .nothing) rfl (by rw [h2]; rfl)]
  exact drive_atRest (atRest_of_restPhase rfl)

/-- A register setter whose WRITE fails (R102). -/
theorem request_setter_fails {op : Instr} {body : State → Nat → Act} {s : State} {a n : Nat} {v : List Byte}
    (hi : s.phase = .idle) (ha : admitted s.cfg.params a n = true) (hv : admitted s.cfg.params a v.length = true)
    (hne : a ≠ 47) (h0 : body (s.accept op) 0 = .read a n) (hl : s.linkFails 0 = false) (hl1 : s.linkFails 1 = true)
    (h1 : body (s.afterRead op a n) 1 = .write a v) :
    request op body s =
      .next ((((s.afterRead op a n).writing a v false).garble a v.length).raised op (.transportFailure a)) := by
  have hl1' : (s.afterRead op a n).linkFails 0 = true := by simpa [State.linkFails, State.afterRead] using hl1
  rw [request_read hi ha h0 hl, show (63 : Nat) = 62 + 1 from rfl]
  rw [drive_running (op := op) (pc := 1)
    (t := (((s.afterRead op a n).writing a v false).garble a v.length).raised op (.transportFailure a)) rfl
    (by rw [h1]; exact congrArg Host.Outcome.next (doWrite_fail (s := s.afterRead op a n) hv (payloadValid_of_ne hne v) hl1'))]
  exact drive_atRest (atRest_of_restPhase rfl)

end Sys2Proof.Machine
end

