-- ==== Sys2Proof/Laws/Outcomes.lean ====
section
/-! SUPPORT. The outcomes of an operation in the vocabulary of the claims, from its body alone. -/

namespace Sys2Proof.Machine

/-- An operation but INIT and PLL_IS_PRESENT: it leaves the sequencer idle and reports the error it met. -/
def Instr.plain : Instr → Bool
  | .init _ => false
  | .pllIsPresent => false
  | _ => true

theorem restPhase_of_plain {i : Instr} (h : Instr.plain i = true) (ok : Bool) : restPhase i ok = .idle := by
  cases i <;> first | rfl | cases h

theorem reportOf_of_plain {i : Instr} (h : Instr.plain i = true) (p : Params) (e : OpError) :
    reportOf p i e = .error e := by
  cases i <;> first | rfl | cases h

section
variable {i : Instr} {body : State → Nat → Act} {s : State} (hx : exec i s = request i body s) (hi : s.phase = .idle)
include hx hi

/-- A check that raises an error before the first command. -/
theorem raisesAtOnce_of {e : OpError} (h : Instr.plain i = true) (hb : body (s.accept i) 0 = .raise e) :
    RaisesAtOnce i s e :=
  ⟨_, hx.trans (request_raises hi hb), by
    simp [State.agrees, State.specPart, State.failed, State.ended, State.raised, restPhase_of_plain h,
      reportOf_of_plain h, State.accept]⟩

/-- A check that refuses the request. -/
theorem isRefused_of {r : RefusalReason} (h : Instr.plain i = true) (hb : body (s.accept i) 0 = .refuse r) :
    IsRefused i s :=
  ⟨_, hx.trans (request_refuses hi hb), by
    simp [State.agrees, State.specPart, State.declined, State.refusedIn, State.refuse, restPhase_of_plain h,
      State.accept, hi]⟩

/-- An operation that begins with a READ. -/
theorem failsWithItsRead_of {a n : Nat} (h : Instr.plain i = true) (ha : admitted s.cfg.params a n = true)
    (hb : body (s.accept i) 0 = .read a n) : FailsWithItsRead i s a n :=
  fun hl => ⟨_, hx.trans (request_read_fails hi ha hb hl), by
    simp [State.agrees, State.specPart, State.failed, State.ended, State.raised, restPhase_of_plain h,
      reportOf_of_plain h, State.accept]⟩

/-- A getter completes. -/
theorem getter_completes {a n : Nat} {r : Result} (ha : admitted s.cfg.params a n = true) (hl : s.linkFails 0 = false)
    (h0 : body (s.accept i) 0 = .read a n) (h1 : body (s.afterRead i a n) 1 = .ret r) :
    ∃ t, exec i s = .next t ∧ t.agrees (s.finished r [.read a n (some (s.response a).1)]) :=
  ⟨_, hx.trans (request_getter hi ha h0 hl h1), by
    simp [State.agrees, State.specPart, State.finished, State.ended, State.returned, State.afterRead]⟩

/-- An operation raises an error once its READ has shown it the register. -/
theorem read_raises {a n : Nat} {e : OpError} (h : Instr.plain i = true) (ha : admitted s.cfg.params a n = true)
    (hl : s.linkFails 0 = false) (h0 : body (s.accept i) 0 = .read a n) (h1 : body (s.afterRead i a n) 1 = .raise e) :
    ∃ t, exec i s = .next t ∧ t.agrees (s.failed e [.read a n (some (s.response a).1)]) :=
  ⟨_, hx.trans (request_read_raises hi ha h0 hl h1), by
    simp [State.agrees, State.specPart, State.failed, State.ended, State.raised, State.afterRead, restPhase_of_plain h,
      reportOf_of_plain h]⟩

/-- A setter of a configuration register completes. -/
theorem setter_completes {a : Nat} {old v : List Byte} (hc : s.configRegister a = some old)
    (ho : admitted s.cfg.params a old.length = true) (hv : v.length = old.length) (hl : s.linkUp 2)
    (h0 : body (s.accept i) 0 = .read a old.length) (h1 : body (s.afterRead i a old.length) 1 = .write a v)
    (h2 : ∀ t : State, t.cfg = s.cfg → t.variant = s.variant → t.caps = s.caps → body t 2 = .ret .nothing) :
    ∃ t, exec i s = .next t ∧
      t.agrees ((s.withConfig a v).finished .nothing [.read a old.length (some old), .write a v true]) := by
  have hne : a ≠ 47 := by rintro rfl; cases hc
  have hst := store_quiet ((s.afterRead i a old.length).writing a v true) a v
  refine ⟨_, hx.trans (request_setter hi ho (hv ▸ ho) hne h0 (hl 0 (by omega)) (hl 1 (by omega)) h1
    (h2 _ hst.cfg hst.variant hst.caps)), ?_⟩
  unfold State.configRegister at hc
  split at hc <;> cases hc
  all_goals
    first
    | (obtain ⟨b, rfl⟩ := List.length_eq_one_iff.1 hv
       simp [State.agrees, State.specPart, State.finished, State.ended, State.returned, State.moveTo, State.writing,
         State.afterRead, State.withConfig, byteAt])
    | simp [State.agrees, State.specPart, State.finished, State.ended, State.returned, State.moveTo, State.writing,
         State.afterRead, State.withConfig]

/-- A setter of a configuration register whose WRITE fails. -/
theorem failsWithItsWrite_of {a : Nat} {old v : List Byte} (h : Instr.plain i = true)
    (hc : s.configRegister a = some old) (ho : admitted s.cfg.params a old.length = true) (hv : v.length = old.length)
    (h0 : body (s.accept i) 0 = .read a old.length) (h1 : body (s.afterRead i a old.length) 1 = .write a v) :
    FailsWithItsWrite i s a old.length old v := by
  intro hl0 hl1
  have hne : a ≠ 47 := by rintro rfl; cases hc
  have hr := hx.trans (request_setter_fails hi ho (hv ▸ ho) hne h0 hl0 hl1 h1)
  unfold State.configRegister at hc
  split at hc <;> cases hc
  case h_4 =>
    refine ⟨_, s.noises v.length, hr, by simp [State.noises, hv], ?_⟩
    simp [State.agrees, State.specPart, State.failed, State.ended, State.raised, State.garble, State.writing,
      State.afterRead, State.withConfig, restPhase_of_plain h, reportOf_of_plain h, State.noises, State.noiseAt]
  all_goals
    refine ⟨_, [s.noiseAt 0], hr, rfl, ?_⟩
    simp [State.agrees, State.specPart, State.failed, State.ended, State.raised, State.garble, State.writing,
      State.afterRead, State.withConfig, byteAt, restPhase_of_plain h, reportOf_of_plain h, State.noiseAt]

end

end Sys2Proof.Machine
end

