-- ==== Sys2Proof/Laws/Segments.lean ====
section
/-! SUPPORT. An I2C byte operation inside another operation (spec/30_encoding.md R93): its eight primitives do there what they
do alone. -/

namespace Sys2Proof.Machine

/-- The state with another phase and another `buf`: what an operation's place in its body, and nothing a primitive reads. -/
def State.dressed (s : State) (ph : Phase) (b : Option (List Byte)) : State := { s with phase := ph, buf := b }

theorem complete_dressed (s : State) (ph : Phase) (b : Option (List Byte)) :
    (s.dressed ph b).complete = s.complete.dressed ph b := by
  unfold State.complete State.slaveWrite State.slaveRead State.dressed
  dsimp only
  split
  · split
    · split
      · rfl
      · split <;> rfl
    · split
      · rfl
      · split <;> rfl
  · rfl

theorem readCommand_dressed (s : State) (ph : Phase) (b : Option (List Byte)) (a n : Nat) :
    (s.dressed ph b).readCommand a n = ((s.readCommand a n).1, (s.readCommand a n).2.dressed ph b) := by
  unfold State.readCommand
  rw [show (s.dressed ph b).linkFails 0 = s.linkFails 0 from rfl, show (s.dressed ph b).response a = s.response a from rfl]
  dsimp only
  split <;> rfl

theorem engineControlWrite_dressed (s : State) (ph : Phase) (b : Option (List Byte)) (w : ControlWord) :
    (s.dressed ph b).engineControlWrite w = (s.engineControlWrite w).dressed ph b := by
  unfold State.engineControlWrite
  rw [show (s.dressed ph b).prevGo = s.prevGo from rfl, show (s.dressed ph b).eng = s.eng from rfl]
  split
  · rfl
  · rfl
  · split
    · split <;> rfl
    · rfl

theorem transmitWrite_dressed (s : State) (ph : Phase) (b : Option (List Byte)) (d : Byte) :
    (s.dressed ph b).transmitWrite d = (s.transmitWrite d).dressed ph b := by
  unfold State.transmitWrite
  rw [show (s.dressed ph b).eng = s.eng from rfl]
  split <;> rfl

theorem store_dressed (s : State) (ph : Phase) (b : Option (List Byte)) (a : Nat) (v : List Byte) :
    (s.dressed ph b).store a v = (s.store a v).dressed ph b := by
  unfold State.store
  split
  · rfl
  · rfl
  · rfl
  · exact engineControlWrite_dressed s ph b _
  · exact transmitWrite_dressed s ph b _
  · rfl
  · rfl

theorem garble_dressed (s : State) (ph : Phase) (b : Option (List Byte)) (a n : Nat) :
    (s.dressed ph b).garble a n = (s.garble a n).dressed ph b := by
  unfold State.garble
  split <;> rfl

theorem writeCommand_dressed (s : State) (ph : Phase) (b : Option (List Byte)) (a : Nat) (v : List Byte) :
    (s.dressed ph b).writeCommand a v = ((s.writeCommand a v).1, (s.writeCommand a v).2.dressed ph b) := by
  unfold State.writeCommand
  rw [show (s.dressed ph b).linkFails 0 = s.linkFails 0 from rfl]
  dsimp only
  split
  · exact congrArg _ (garble_dressed (s.writing a v false) ph b a v.length)
  · exact congrArg _ (store_dressed (s.writing a v true) ph b a v)

/-- What an operation op makes of the report of an I2C byte operation that ended without a result (R214). -/
def adapt (p : Params) (op : Instr) : Report → Report
  | .error e => reportOf p op e
  | r => r

/-- Every operation but PLL_IS_PRESENT passes the report on. -/
theorem adapt_of_not_probe {op : Instr} (h : op ≠ .pllIsPresent) (p : Params) (r : Report) : adapt p op r = r := by
  cases r <;> first | rfl | exact reportOf_of_not_probe h p _

/-- The primitives of an I2C byte operation. -/
def Act.plain : Act → Bool
  | .read _ _ => true
  | .write _ _ => true
  | .control _ _ => true
  | .wait _ => true
  | .status _ _ => true
  | _ => false

/-- Operation op, a step of it at pc2, follows operation sub, at pc1: the same state but for the place and `buf`. -/
structure Follows (sub op : Instr) (pc1 pc2 : Nat) (s t : State) : Prop where
  place : s.phase = .running sub pc1
  same : t = s.dressed (.running op pc2) t.buf

/-- The two have gone on alike: to the next primitive, or to an end without a result. -/
def Alike (sub op : Instr) (pc1 pc2 : Nat) (reads : Bool) (b : Option (List Byte)) (s t : State) : Prop :=
  (Follows sub op (pc1 + 1) (pc2 + 1) s t ∧ t.buf = if reads then s.buf else b) ∨
    (s.AtRest ∧ (∀ r, s.report ≠ .ok r) ∧ s.phase = .idle ∧ s.buf = none ∧ t = { s with report := adapt s.cfg.params op s.report })

variable {sub op : Instr}

theorem alike_raised (hs : ∀ v, sub ≠ .init v) (hp : sub ≠ .pllIsPresent) (ho : ∀ v, op ≠ .init v) (pc1 pc2 : Nat)
    (reads : Bool) (c : Option (List Byte)) (s : State) (ph : Phase) (b : Option (List Byte)) (e : OpError) :
    Alike sub op pc1 pc2 reads c (s.raised sub e) ((s.dressed ph b).raised op e) := by
  refine .inr ⟨atRest_of_restPhase (op := sub) (ok := false) rfl, ?_, restPhase_of_not_init hs _, rfl, ?_⟩
  · intro r h
    have : reportOf s.cfg.params sub e = .ok r := h
    rw [reportOf_of_not_probe hp] at this
    cases this
  · simp only [State.raised, State.dressed, restPhase_of_not_init hs, restPhase_of_not_init ho, reportOf_of_not_probe hp, adapt]

theorem alike_refused (hs : ∀ v, sub ≠ .init v) (ho : ∀ v, op ≠ .init v) (pc1 pc2 : Nat)
    (reads : Bool) (c : Option (List Byte)) (s : State) (ph : Phase) (b : Option (List Byte)) (r : RefusalReason) :
    Alike sub op pc1 pc2 reads c (s.refusedIn sub r) ((s.dressed ph b).refusedIn op r) := by
  refine .inr ⟨atRest_of_restPhase (op := sub) (ok := false) rfl, fun r h => ?_, restPhase_of_not_init hs _, rfl, ?_⟩
  · cases (show Report.none = .ok r from h)
  · simp only [State.refusedIn, State.refuse, State.dressed, restPhase_of_not_init hs, restPhase_of_not_init ho, adapt]

theorem alike_abandoned (hs : ∀ v, sub ≠ .init v) (ho : ∀ v, op ≠ .init v) (pc1 pc2 : Nat)
    (reads : Bool) (c : Option (List Byte)) (s : State) (ph : Phase) (b : Option (List Byte)) :
    Alike sub op pc1 pc2 reads c (s.abandoned sub) ((s.dressed ph b).abandoned op) := by
  refine .inr ⟨atRest_of_restPhase (op := sub) (ok := false) rfl, fun r h => ?_, restPhase_of_not_init hs _, rfl, ?_⟩
  · cases (show Report.none = .ok r from h)
  · simp only [State.abandoned, State.undefineEngine, State.dressed, restPhase_of_not_init hs, restPhase_of_not_init ho, adapt]

theorem alike_next (pc1 pc2 : Nat) (s : State) (ph : Phase) (b : Option (List Byte)) :
    Alike sub op pc1 pc2 false b (s.moveTo sub (pc1 + 1)) ((s.dressed ph b).moveTo op (pc2 + 1)) :=
  .inl ⟨⟨rfl, rfl⟩, rfl⟩

theorem alike_read (pc1 pc2 : Nat) (s : State) (ph : Phase) (b c : Option (List Byte)) (bs : List Byte) :
    Alike sub op pc1 pc2 true c ({ s with buf := some bs }.moveTo sub (pc1 + 1))
      ({ s.dressed ph b with buf := some bs }.moveTo op (pc2 + 1)) :=
  .inl ⟨⟨rfl, rfl⟩, rfl⟩

theorem doControl_alike (hs : ∀ v, sub ≠ .init v) (hp : sub ≠ .pllIsPresent) (ho : ∀ v, op ≠ .init v) (pc1 pc2 : Nat)
    (s : State) (ph : Phase) (b : Option (List Byte)) (w : ControlWord) :
    Alike sub op pc1 pc2 false b (s.doControl sub pc1 w) ((s.dressed ph b).doControl op pc2 w) := by
  unfold State.doControl
  rw [writeCommand_dressed]
  rcases s.writeCommand 47 w.bytes with ⟨_ | _, t⟩
  · exact alike_raised hs hp ho ..
  · exact alike_next ..

theorem doWait_alike (pc1 pc2 : Nat) (s : State) (ph : Phase) (b : Option (List Byte)) :
    Alike sub op pc1 pc2 false b (s.doWait sub pc1) ((s.dressed ph b).doWait op pc2) := by
  unfold State.doWait
  rw [complete_dressed]
  exact alike_next pc1 pc2 (s.complete.record .wait) ph b

theorem unlessAbandoned_alike (hs : ∀ v, sub ≠ .init v) (ho : ∀ v, op ≠ .init v) (pc1 pc2 : Nat) (s : State) (ph : Phase)
    (b : Option (List Byte)) (inside : Bool) (k l : State → State)
    (hk : ∀ s, Alike sub op pc1 pc2 false b (k s) (l (s.dressed ph b))) :
    Alike sub op pc1 pc2 false b (s.unlessAbandoned sub inside k) ((s.dressed ph b).unlessAbandoned op inside l) := by
  unfold State.unlessAbandoned
  rw [show (s.dressed ph b).callerStops 0 = s.callerStops 0 from rfl]
  split
  · dsimp only
    split
    · exact alike_abandoned hs ho pc1 pc2 false b { s with caller := s.caller.skip 1 } ph b
    · exact hk { s with caller := s.caller.skip 1 }
  · exact hk s

/-- One primitive of an I2C byte operation does the same inside another operation. -/
theorem perform_alike (hs : ∀ v, sub ≠ .init v) (hp : sub ≠ .pllIsPresent) (ho : ∀ v, op ≠ .init v) {pc1 pc2 : Nat}
    {s t : State} (h : Follows sub op pc1 pc2 s t) {a : Act} (ha : a.plain = true) :
    ∃ s' t', perform sub pc1 a s = .next s' ∧ perform op pc2 a t = .next t' ∧
      Alike sub op pc1 pc2 a.reads t.buf s' t' := by
  obtain ⟨hplace, hsame⟩ := h
  generalize hb : t.buf = b at hsame
  subst hsame
  clear hb
  cases a with
  | read addr len =>
    refine ⟨_, _, rfl, rfl, ?_⟩
    unfold State.doRead
    rw [readCommand_dressed, show (s.dressed (.running op pc2) b).cfg = s.cfg from rfl]
    split
    · rcases s.readCommand addr len with ⟨_ | bs, t⟩
      · exact alike_raised hs hp ho ..
      · exact alike_read ..
    · exact alike_refused hs ho ..
  | write addr v =>
    refine ⟨_, _, rfl, rfl, ?_⟩
    unfold State.doWrite
    rw [writeCommand_dressed, show (s.dressed (.running op pc2) b).cfg = s.cfg from rfl]
    split
    · split
      · rcases s.writeCommand addr v with ⟨_ | _, t⟩
        · exact alike_raised hs hp ho ..
        · exact alike_next ..
      · exact alike_refused hs ho ..
    · exact alike_refused hs ho ..
  | control inside w =>
    exact ⟨_, _, rfl, rfl, unlessAbandoned_alike hs ho pc1 pc2 s _ b inside _ _
      (fun s => doControl_alike hs hp ho pc1 pc2 s _ b w)⟩
  | wait inside =>
    exact ⟨_, _, rfl, rfl, unlessAbandoned_alike hs ho pc1 pc2 s _ b inside _ _ (fun s => doWait_alike pc1 pc2 s _ b)⟩
  | status sla reg =>
    refine ⟨_, _, rfl, rfl, ?_⟩
    unfold State.doStatus
    rw [readCommand_dressed]
    rcases s.readCommand 47 3 with ⟨_ | bs, t⟩
    · exact alike_raised hs hp ho ..
    · dsimp only
      split
      · exact alike_raised hs hp ho ..
      · exact alike_read ..
  | emit lock => cases ha
  | jump k => cases ha
  | ret r => cases ha
  | raise e => cases ha
  | refuse r => cases ha
  | stale => cases ha

/-- A primitive after which the operation goes on has not touched the report. -/
theorem perform_report {pc k : Nat} {a : Act} {s t : State} (h : perform op pc a s = .next t) (ha : a.plain = true)
    (hk : t.phase = .running op k) : t.report = s.report := by
  cases a with
  | read addr len =>
    cases h
    have hq := readCommand_quiet s addr len
    unfold State.doRead at hk ⊢
    split at hk
    · split at hk
      · rename_i heq; rw [if_pos ‹_›]; rw [heq] at hq; exact hq.report
      · exact absurd hk (restPhase_ne_running _ _ _ _)
    · exact absurd hk (restPhase_ne_running _ _ _ _)
  | write addr v =>
    cases h
    have hq := writeCommand_quiet s addr v
    unfold State.doWrite at hk ⊢
    split at hk
    · split at hk
      · split at hk
        · rename_i heq; rw [if_pos ‹_›, if_pos ‹_›]; rw [heq] at hq; exact hq.report
        · exact absurd hk (restPhase_ne_running _ _ _ _)
      · exact absurd hk (restPhase_ne_running _ _ _ _)
    · exact absurd hk (restPhase_ne_running _ _ _ _)
  | control inside w =>
    cases h
    have key : ∀ u : State, (u.doControl op pc w).phase = .running op k → (u.doControl op pc w).report = u.report := by
      intro u hu
      have hq := writeCommand_quiet u 47 w.bytes
      unfold State.doControl at hu ⊢
      split at hu
      · rename_i heq; rw [heq] at hq; exact hq.report
      · exact absurd hu (restPhase_ne_running _ _ _ _)
    unfold State.unlessAbandoned at hk ⊢
    split at hk
    · rw [if_pos ‹_›]
      dsimp only at hk ⊢
      split at hk
      · exact absurd hk (restPhase_ne_running _ _ _ _)
      · rw [if_neg ‹_›]; exact key _ hk
    · rw [if_neg ‹_›]; exact key _ hk
  | wait inside =>
    cases h
    have key : ∀ u : State, (u.doWait op pc).report = u.report := fun u => (complete_quiet u).report
    unfold State.unlessAbandoned at hk ⊢
    split at hk
    · rw [if_pos ‹_›]
      dsimp only at hk ⊢
      split at hk
      · exact absurd hk (restPhase_ne_running _ _ _ _)
      · rw [if_neg ‹_›]; exact key _
    · rw [if_neg ‹_›]; exact key _
  | status sla reg =>
    cases h
    have hq := readCommand_quiet s 47 3
    unfold State.doStatus at hk ⊢
    split at hk
    · split at hk
      · exact absurd hk (restPhase_ne_running _ _ _ _)
      · rename_i heq _; rw [heq] at hq; rw [if_neg ‹_›]; exact hq.report
    · exact absurd hk (restPhase_ne_running _ _ _ _)
  | emit lock => cases ha
  | jump k => cases ha
  | ret r => cases ha
  | raise e => cases ha
  | refuse r => cases ha
  | stale => cases ha

/-- Where an I2C byte operation ended without a result, the operation it stands in has ended with it. -/
def EndedTogether (op : Instr) (s' t' : State) : Prop :=
  s'.phase = .idle ∧ s'.buf = none ∧ (∀ r, s'.report ≠ .ok r) ∧ t' = { s' with report := adapt s'.cfg.params op s'.report }

/-- The primitives from step j to step 8 of an I2C byte operation, alone and inside another operation. -/
theorem rest_within (hs : ∀ v, sub ≠ .init v) (hp : sub ≠ .pllIsPresent) (ho : ∀ v, op ≠ .init v) {prim : Nat → Act}
    (hplain : ∀ k, k < 8 → (prim k).plain = true) (hlast : (prim 7).reads = true) {b1 b2 : State → Nat → Act} {k : Nat}
    {c : Board} (h1 : ∀ u pc, pc < 8 → b1 u pc = prim pc) (n m : Nat) :
    ∀ (i j : Nat) (s t : State), j + i = 8 → j < 8 → Follows sub op j (k + j) s t → s.cfg = c → s.report = .none →
      b2 t (k + j) = prim j → (∀ u pc, u.cfg = c → j < pc → pc < 8 → b2 u (k + pc) = prim pc) →
      (∃ s' t', drive b1 (n + i) s = .next s' ∧ drive b2 (m + i) t = .next t' ∧ EndedTogether op s' t') ∨
      (∃ s' t', drive b1 (n + i) s = drive b1 n s' ∧ drive b2 (m + i) t = drive b2 m t' ∧ Follows sub op 8 (k + 8) s' t' ∧
        s'.cfg = c ∧ s'.report = .none ∧ t'.buf = s'.buf ∧ s'.buf.isSome = true) := by
  intro i
  induction i with
  | zero => intro j s t hj hlt; omega
  | succ i ih =>
    intro j s t hj hlt hf hc hr h2 h2'
    obtain ⟨s', t', hp1, hp2, ha⟩ := perform_alike hs hp ho hf (hplain j hlt)
    have hpt : t.phase = .running op (k + j) := by rw [hf.same]; rfl
    have d1 : drive b1 (n + (i + 1)) s = drive b1 (n + i) s' := drive_running hf.place (by rw [h1 s j hlt]; exact hp1)
    have d2 : drive b2 (m + (i + 1)) t = drive b2 (m + i) t' := drive_running hpt (by rw [h2]; exact hp2)
    rw [d1, d2]
    rcases ha with ⟨hf', hb'⟩ | ⟨hrest, hno, hidle, hbuf, rfl⟩
    · have hc' : s'.cfg = c := (perform_steady hp1).cfg.trans hc
      have hr' : s'.report = .none := (perform_report hp1 (hplain j hlt) hf'.place).trans hr
      by_cases hj7 : j = 7
      · subst hj7
        obtain rfl : i = 0 := by omega
        refine .inr ⟨s', t', rfl, rfl, hf', hc', hr', by rw [hb', hlast]; rfl, ?_⟩
        rcases perform_goes hp1 with ⟨_, _, _, _, h⟩ | h
        · exact h (.inr hlast)
        · exact absurd hf'.place (h _ _)
      · exact ih (j + 1) s' t' (by omega) (by omega) hf' hc' hr' (h2' t' (j + 1) (by rw [hf'.same]; exact hc') (by omega) (by omega))
          (fun u pc hu hj' hlt' => h2' u pc hu (by omega) hlt')
    · refine .inl ⟨s', _, drive_atRest hrest, drive_atRest ?_, hidle, hbuf, hno, rfl⟩
      exact fun i k => hrest i k

/-! The byte operations -/

theorem i2cReadPrim_plain (sla reg : Reg7) (k : Nat) : (i2cReadPrim sla reg k).plain = true := by
  unfold i2cReadPrim
  split <;> rfl

theorem i2cWritePrim_plain (sla reg : Reg7) (d : Byte) (k : Nat) : (i2cWritePrim sla reg (dataWrite d) k).plain = true := by
  unfold i2cWritePrim
  split <;> rfl

/-- Only the first primitive of a byte write depends on the data. -/
theorem i2cWritePrim_data {sla reg : Reg7} {a a' : Act} {k : Nat} (h : 0 < k) :
    i2cWritePrim sla reg a k = i2cWritePrim sla reg a' k := by
  unfold i2cWritePrim
  split
  · omega
  all_goals rfl

theorem i2cNumbers_toNat (reg sla : Reg7) (k : Reg7 → Reg7 → Act) : i2cNumbers reg.toNat sla.toNat k = k reg sla := by
  have h1 := reg.isLt
  have h2 := sla.isLt
  rw [i2cNumbers, if_neg (by omega), BitVec.ofNat_toNat, BitVec.ofNat_toNat, BitVec.setWidth_eq, BitVec.setWidth_eq]

/-- The body of a byte read. -/
theorem i2cReadByteBody_of (reg sla : Reg7) (s : State) (pc : Nat) : i2cReadByteBody reg.toNat sla.toNat s pc =
    if pc < 8 then i2cReadPrim sla reg pc else withBuf s fun buf => .ret (.byte (byteAt buf 0)) :=
  i2cNumbers_toNat reg sla _

/-- The body of a byte write. -/
theorem i2cWriteByteBody_of (reg sla : Reg7) (d : Byte) (s : State) (pc : Nat) : i2cWriteByteBody reg.toNat d sla.toNat s pc =
    if pc < 8 then i2cWritePrim sla reg (dataWrite d) pc else .ret .nothing :=
  i2cNumbers_toNat reg sla _

/-- The place of an operation op in an idle state: about to take step k, with `buf` b. -/
def State.inside (s : State) (op : Instr) (k : Nat) (b : Option (List Byte)) : State :=
  { s with phase := .running op k, buf := b, report := .none }

/-- A byte read inside operation op, from step k of it, does what it does alone; where it returns a byte op goes on at step
k + 8 with that byte in `buf`. -/
theorem i2cRead_within (ho : ∀ v, op ≠ .init v) {b2 : State → Nat → Act} {k : Nat} {s : State} (hi : s.phase = .idle)
    (sla reg : Reg7) (b : Option (List Byte)) (m : Nat)
    (h2 : ∀ u pc, u.cfg = s.cfg → pc < 8 → b2 u (k + pc) = i2cReadPrim sla reg pc) :
    (∃ t t', exec (.i2cReadByte reg.toNat sla.toNat) s = .next t ∧ drive b2 (m + 8) (s.inside op k b) = .next t' ∧
      EndedTogether op t t') ∨
    (∃ t bs, exec (.i2cReadByte reg.toNat sla.toNat) s = .next t ∧ t.phase = .idle ∧ t.buf = none ∧
      t.report = .ok (.byte (byteAt bs 0)) ∧ t.cfg = s.cfg ∧
      drive b2 (m + 8) (s.inside op k b) = drive b2 m (t.inside op (k + 8) (some bs))) := by
  have hx : exec (.i2cReadByte reg.toNat sla.toNat) s =
      drive (i2cReadByteBody reg.toNat sla.toNat) (56 + 8) (s.accept (.i2cReadByte reg.toNat sla.toNat)) := request_idle hi
  rw [hx]
  rcases rest_within (sub := .i2cReadByte reg.toNat sla.toNat) (op := op) (prim := i2cReadPrim sla reg) (k := k) (c := s.cfg)
    (b1 := i2cReadByteBody reg.toNat sla.toNat) (b2 := b2) nofun nofun ho (fun k _ => i2cReadPrim_plain sla reg k) rfl
    (fun u pc h => by rw [i2cReadByteBody_of, if_pos h]) 56 m 8 0 (s.accept (.i2cReadByte reg.toNat sla.toNat))
    (s.inside op k b) rfl (by omega) ⟨rfl, rfl⟩ rfl rfl (h2 _ 0 rfl (by omega)) (fun u pc hu _ h => h2 u pc hu h) with h | h
  · exact .inl h
  · obtain ⟨s', t', d1, d2, hf, hc, hr, hbt, hbs⟩ := h
    obtain ⟨bs, hbs⟩ := Option.isSome_iff_exists.1 hbs
    refine .inr ⟨s'.returned (.i2cReadByte reg.toNat sla.toNat) (.byte (byteAt bs 0)), bs, d1.trans ?_, rfl, rfl, rfl, hc,
      d2.trans (congrArg (drive b2 m) ?_)⟩
    · rw [show (56 : Nat) = 55 + 1 from rfl, drive_running hf.place
        (t := s'.returned (.i2cReadByte reg.toNat sla.toNat) (.byte (byteAt bs 0)))]
      · exact drive_atRest (fun i k h => nomatch h)
      · rw [i2cReadByteBody_of, if_neg (by omega), withBuf, hbs]; rfl
    · rw [hf.same, hbt, hbs]
      simp only [State.dressed, State.inside, State.returned, hr]

/-- A byte write inside operation op, from step k of it, does what it does alone; where it succeeds op goes on at step k + 8. -/
theorem i2cWrite_within (ho : ∀ v, op ≠ .init v) {b2 : State → Nat → Act} {k : Nat} {s : State} (hi : s.phase = .idle)
    (sla reg : Reg7) (d : Byte) (b : Option (List Byte)) (m : Nat)
    (h2 : b2 (s.inside op k b) k = dataWrite d)
    (h2' : ∀ u pc, u.cfg = s.cfg → 0 < pc → pc < 8 → b2 u (k + pc) = i2cWritePrim sla reg (dataWrite d) pc) :
    (∃ t t', exec (.i2cWriteByte reg.toNat d sla.toNat) s = .next t ∧ drive b2 (m + 8) (s.inside op k b) = .next t' ∧
      EndedTogether op t t') ∨
    (∃ t bs, exec (.i2cWriteByte reg.toNat d sla.toNat) s = .next t ∧ t.phase = .idle ∧ t.buf = none ∧
      t.report = .ok .nothing ∧ t.cfg = s.cfg ∧
      drive b2 (m + 8) (s.inside op k b) = drive b2 m (t.inside op (k + 8) bs)) := by
  have hx : exec (.i2cWriteByte reg.toNat d sla.toNat) s =
      drive (i2cWriteByteBody reg.toNat d sla.toNat) (56 + 8) (s.accept (.i2cWriteByte reg.toNat d sla.toNat)) :=
    request_idle hi
  rw [hx]
  rcases rest_within (sub := .i2cWriteByte reg.toNat d sla.toNat) (op := op) (prim := i2cWritePrim sla reg (dataWrite d))
    (k := k) (c := s.cfg) (b1 := i2cWriteByteBody reg.toNat d sla.toNat) (b2 := b2) nofun nofun ho
    (fun k _ => i2cWritePrim_plain sla reg d k) rfl
    (fun u pc h => by rw [i2cWriteByteBody_of, if_pos h]) 56 m 8 0 (s.accept (.i2cWriteByte reg.toNat d sla.toNat))
    (s.inside op k b) rfl (by omega) ⟨rfl, rfl⟩ rfl rfl h2 (fun u pc hu hj h => h2' u pc hu hj h) with h | h
  · exact .inl h
  · obtain ⟨s', t', d1, d2, hf, hc, hr, hbt, hbs⟩ := h
    refine .inr ⟨s'.returned (.i2cWriteByte reg.toNat d sla.toNat) .nothing, t'.buf, d1.trans ?_, rfl, rfl, rfl, hc,
      d2.trans (congrArg (drive b2 m) ?_)⟩
    · rw [show (56 : Nat) = 55 + 1 from rfl, drive_running hf.place
        (t := s'.returned (.i2cWriteByte reg.toNat d sla.toNat) .nothing)]
      · exact drive_atRest (fun i k h => nomatch h)
      · rw [i2cWriteByteBody_of, if_neg (by omega)]; rfl
    · rw [hf.same]
      simp only [State.dressed, State.inside, State.returned, hr]

/-! Sequences -/

/-- A sequence ends where an operation returned no result. -/
theorem andThen_not_ok {t : State} (h : ∀ r, t.report ≠ .ok r) (next : Result → State → Out) :
    andThen (.next t) next = .next t := by
  cases hr : t.report with
  | ok r => exact absurd hr (h r)
  | error e => simp [andThen, hr]
  | none => simp [andThen, hr]

/-- A sequence goes on where an operation returned a result. -/
theorem andThen_ok {t : State} {r : Result} (h : t.report = .ok r) (next : Result → State → Out) :
    andThen (.next t) next = next r t := by
  simp only [andThen, h]

/-- Every operation but PLL_IS_PRESENT ends in the state its I2C byte operation ended in. -/
theorem EndedTogether.same {t t' : State} (ho : op ≠ .pllIsPresent) (h : EndedTogether op t t') : t' = t := by
  rw [h.2.2.2, adapt_of_not_probe ho]

/-- An operation that returns nothing right after an I2C byte operation leaves the state that one left, with no result. -/
theorem inside_returns {b : State → Nat → Act} {m k : Nat} {bs : Option (List Byte)} {t : State} (hi : t.phase = .idle)
    (hb : t.buf = none) (h : b (t.inside op k bs) k = .ret .nothing) :
    drive b (m + 1) (t.inside op k bs) = .next { t with report := .ok .nothing } := by
  rw [drive_running (op := op) (pc := k) (t := (t.inside op k bs).returned op .nothing) rfl (by rw [h]; rfl)]
  rw [drive_atRest (fun i k h => by simp [State.returned] at h)]
  simp only [State.returned, State.inside, restPhase_ok, ← hi, ← hb]

/-- An accepted request is about to take step 0. -/
theorem accept_eq_inside (s : State) (i : Instr) : s.accept i = s.inside i 0 none := rfl

/-- A boolean argument of 0 or 1. -/
theorem boolArg_toNat (b : Bool) (k : Bool → Act) : boolArg b.toNat k = k b := by cases b <;> rfl

/-- A number and its remainder have the same low byte. -/
theorem ofNat8_mod (n : Nat) : BitVec.ofNat 8 (n % 256) = BitVec.ofNat 8 n := by
  apply BitVec.eq_of_toNat_eq
  simp

end Sys2Proof.Machine
end

