-- ==== Sys2Proof/Laws/I2C.lean ====
section
/-! SUPPORT. The I2C byte operations in closed form, the engine idle, no command failing and the caller staying
(spec/45_i2c_master.md R185, R186). -/

namespace Sys2Proof.Machine

variable {s : State} {op : Instr} {pc : Nat}

theorem linkFails_skip (l : Draws Bool) (n k : Nat) :
    State.linkFails { s with link := l.skip n } k = State.linkFails { s with link := l } (n + k) := by
  simp [State.linkFails]

/-- The state after the first n draws of the transport and the first m of the caller. -/
def State.spent (s : State) (n m : Nat) : State := { s with link := s.link.skip n, caller := s.caller.skip m }

@[simp] theorem spent_linkFails (s : State) (n m k : Nat) : (s.spent n m).linkFails k = s.linkFails (n + k) := by
  simp [State.linkFails, State.spent]

@[simp] theorem spent_callerStops (s : State) (n m k : Nat) : (s.spent n m).callerStops k = s.callerStops (m + k) := by
  simp [State.callerStops, State.spent]

theorem State.linkUp.spent {s : State} {n k m : Nat} (h : s.linkUp n) (hk : k ≤ n) : (s.spent k m).linkUp (n - k) :=
  fun j hj => by rw [spent_linkFails]; exact h _ (by omega)

theorem State.callerStays.spent {s : State} {n k m : Nat} (h : s.callerStays n) (hk : k ≤ n) :
    (s.spent m k).callerStays (n - k) :=
  fun j hj => by rw [spent_callerStops]; exact h _ (by omega)

/-- A control WRITE that completes, the caller staying. -/
theorem perform_control {inside : Bool} (w : ControlWord) (hl : s.linkFails 0 = false)
    (hc : inside = true → s.callerStops 0 = false) : perform op pc (.control inside w) s =
      .next ((({ s with caller := s.caller.skip inside.toNat }.writing 47 w.bytes true).engineControlWrite w).moveTo op
        (pc + 1)) := by
  have skip0 : s.caller.skip 0 = s.caller := by simp [Draws.skip]
  cases inside with
  | false =>
    simp [perform, State.unlessAbandoned, State.doControl, State.writeCommand, hl, State.writing, State.record, skip0,
      ControlWord.bytes]
  | true =>
    have hl' : State.linkFails { s with caller := s.caller.skip 1 } 0 = false := hl
    simp [perform, State.unlessAbandoned, State.doControl, State.writeCommand, hl', hc rfl, State.writing, State.record,
      ControlWord.bytes]

/-- A settle wait, the caller staying. -/
theorem perform_wait {inside : Bool} (hc : inside = true → s.callerStops 0 = false) : perform op pc (.wait inside) s =
    .next (({ s with caller := s.caller.skip inside.toNat }.complete.record .wait).moveTo op (pc + 1)) := by
  have skip0 : s.caller.skip 0 = s.caller := by simp [Draws.skip]
  cases inside with
  | false => simp [perform, State.unlessAbandoned, State.doWait, skip0]
  | true => simp [perform, State.unlessAbandoned, State.doWait, hc rfl]

/-- The status word read while the engine is idle and the flag is n (R174). -/
def State.statusWord (s : State) (n : Bool) : List Byte := [statusFirst (some n) .idle (s.noiseAt 0), s.noiseAt 1, s.noiseAt 2]

theorem nackSet_statusWord (s : State) (n : Bool) : nackSet (s.statusWord n) = n := statusFirst_bit_zero n _

/-- A status READ that completes, the engine idle and the flag defined. -/
theorem perform_status {sla reg : Reg7} {n : Bool} (hl : s.linkFails 0 = false) (he : s.eng = .idle) (hn : s.nack = some n) :
    perform op pc (.status sla reg) s = .next (
      let t : State := { s with
        link := s.link.skip 1
        noise := s.noise.skip 3
        trace := s.trace ++ [Traffic.read 47 3 (some (s.statusWord n))] }
      if n then t.raised op (.noAcknowledge sla reg)
      else { t with buf := some (s.statusWord n) }.moveTo op (pc + 1)) := by
  have hr : s.response 47 = (s.statusWord n, 3) := by simp only [response_status, he, hn, State.statusWord]
  simp only [perform, State.doStatus, State.readCommand, hl, State.record, hr, nackSet_statusWord, Bool.false_eq_true, if_false]

/-- The data READ that completes, the engine idle and the receive byte defined. -/
theorem perform_receive {d : Byte} (hl : s.linkFails 0 = false) (he : s.eng = .idle) (hr : s.rxd = some d) :
    perform op pc (.read 48 1) s = .next (
      State.moveTo { s with
        link := s.link.skip 1
        trace := s.trace ++ [Traffic.read 48 1 (some [d])]
        buf := some [d] } op (pc + 1)) := by
  have hr : s.response 48 = ([d], 0) := by simp only [State.response, he, hr]
  simp [perform, State.doRead, State.readCommand, hl, State.record, hr, Draws.skip]

/-- The state the three-phase handshake leaves: the slave has answered, the flag and the receive byte say how. -/
def State.shaken (s : State) (rw : Direction) (sla reg : Reg7) : State :=
  let t : State := { s with
    link := s.link.skip 3
    caller := s.caller.skip 4
    ctlLatch := some (controlWordOf rw sla reg ctlIdle)
    trace := s.trace ++ handshake rw sla reg }
  match rw with
  | .read => { t with
      bus := (s.slaveRead sla reg).2.bus
      slave := (s.slaveRead sla reg).2.slave
      nack := some (!(s.slaveRead sla reg).1.ack)
      rxd := if (s.slaveRead sla reg).1.ack then some (s.slaveRead sla reg).1.data else none }
  | .write => { t with
      bus := (s.slaveWrite sla reg s.txd).2.bus
      slave := (s.slaveWrite sla reg s.txd).2.slave
      nack := some (!(s.slaveWrite sla reg s.txd).1)
      rxd := none }

/-- In the middle of a handshake, about to take step pc: l draws of the transport and c of the caller taken, the control word w
last written, tr added to the trace. -/
def State.mid (s : State) (op : Instr) (pc l c : Nat) (w : ControlWord) (tr : List Traffic) : State :=
  { s with
    phase := .running op pc
    link := s.link.skip l
    caller := s.caller.skip c
    ctlLatch := some w
    trace := s.trace ++ tr }

theorem mid_complete (s : State) (op : Instr) (pc l c : Nat) (w : ControlWord) (tr : List Traffic) :
    (s.mid op pc l c w tr).complete = s.complete.mid op pc l c w tr := by
  unfold State.complete State.slaveWrite State.slaveRead State.mid
  dsimp only
  split
  · split
    · split
      · rfl
      · split <;> rfl
    · split
      · rfl
      · split <;> rfl
  · rfl

section
variable {l c : Nat} {w v : ControlWord} {tr : List Traffic}

theorem mid_linkFails (k : Nat) : (s.mid op pc l c w tr).linkFails k = s.linkFails (l + k) := by
  simp [State.linkFails, State.mid]

theorem mid_callerStops (k : Nat) : (s.mid op pc l c w tr).callerStops k = s.callerStops (c + k) := by
  simp [State.callerStops, State.mid]

/-- A wait in the middle of a handshake. -/
theorem mid_wait {inside : Bool} (hc : inside = true → s.callerStops c = false) :
    perform op pc (.wait inside) (s.mid op pc l c w tr) =
      .next (s.complete.mid op (pc + 1) l (c + inside.toNat) w (tr ++ [.wait])) := by
  have hcal : s.complete.caller = s.caller := by
    unfold State.complete State.slaveWrite State.slaveRead
    split
    · split
      · split
        · rfl
        · split <;> rfl
      · split
        · rfl
        · split <;> rfl
    · rfl
  rw [perform_wait (fun h => by rw [mid_callerStops]; exact hc h)]
  rw [show ({ s.mid op pc l c w tr with caller := (s.mid op pc l c w tr).caller.skip inside.toNat } : State) =
    s.mid op pc l (c + inside.toNat) w tr by simp [State.mid]]
  rw [mid_complete]
  simp [State.record, State.moveTo, State.mid]

/-- A setup or release WRITE, the engine idle. -/
theorem mid_control_noGo {inside : Bool} (he : s.eng = .idle) (hg : v.go = false) (hl : s.linkFails l = false)
    (hc : inside = true → s.callerStops c = false) :
    perform op pc (.control inside v) (s.mid op pc l c w tr) =
      .next (s.mid op (pc + 1) (l + 1) (c + inside.toNat) v (tr ++ [.write 47 v.bytes true])) := by
  rw [perform_control v (by rw [mid_linkFails]; exact hl) (fun h => by rw [mid_callerStops]; exact hc h)]
  rw [engineControlWrite_noGo (by exact he) hg]
  simp [State.writing, State.moveTo, State.mid]

/-- A strobe, the engine idle and GO 0 before it. -/
theorem mid_control_rise {inside : Bool} (he : s.eng = .idle) (hw : w.go = false) (hg : v.go = true)
    (hl : s.linkFails l = false) (hc : inside = true → s.callerStops c = false) :
    perform op pc (.control inside v) (s.mid op pc l c w tr) =
      .next (({ s with rxd := none, eng := .busy ⟨v.rw, v.sla, v.reg, s.txd⟩ } : State).mid op (pc + 1) (l + 1)
        (c + inside.toNat) v (tr ++ [.write 47 v.bytes true])) := by
  rw [perform_control v (by rw [mid_linkFails]; exact hl) (fun h => by rw [mid_callerStops]; exact hc h)]
  rw [engineControlWrite_rise (v := w) (by exact he) rfl hw hg]
  simp [State.writing, State.moveTo, State.mid]

end

/-- The first control WRITE of a handshake, the engine idle. -/
theorem perform_setup (he : s.eng = .idle) {v : ControlWord} (hg : v.go = false) (hl : s.linkFails 0 = false) :
    perform op pc (.control false v) s = .next (s.mid op (pc + 1) 1 0 v [.write 47 v.bytes true]) := by
  rw [perform_control v hl (fun h => by cases h), engineControlWrite_noGo (by exact he) hg]
  simp [State.writing, State.moveTo, State.mid]

/-- A slave's answer to a read changes the slave alone. -/
theorem slaveRead_started (s : State) (e : Engine) (sla reg : Reg7) :
    ({ s with rxd := none, eng := e } : State).slaveRead sla reg = ((s.slaveRead sla reg).1,
      { s with rxd := none, eng := e, bus := (s.slaveRead sla reg).2.bus, slave := (s.slaveRead sla reg).2.slave }) := by
  unfold State.slaveRead
  dsimp only
  cases hb : s.bus with
  | lawless => rfl
  | wellBehaved a f => dsimp only; split <;> simp [hb]

/-- A slave's answer to a write changes the slave alone. -/
theorem slaveWrite_started (s : State) (e : Engine) (sla reg : Reg7) (d : Byte) :
    ({ s with rxd := none, eng := e } : State).slaveWrite sla reg d = ((s.slaveWrite sla reg d).1,
      { s with rxd := none, eng := e, bus := (s.slaveWrite sla reg d).2.bus,
               slave := (s.slaveWrite sla reg d).2.slave }) := by
  unfold State.slaveWrite
  dsimp only
  cases hb : s.bus with
  | lawless => rfl
  | wellBehaved a f => dsimp only; split <;> simp [hb]

/-- The transaction a strobe starts, completed. -/
theorem started_complete (s : State) (he : s.eng = .idle) (rw : Direction) (sla reg : Reg7) (op : Instr) (pc : Nat) :
    (({ s with rxd := none, eng := .busy ⟨rw, sla, reg, s.txd⟩ } : State).complete.mid op pc 3 4
      (controlWordOf rw sla reg ctlIdle) (handshake rw sla reg)) = (s.shaken rw sla reg).moveTo op pc := by
  cases rw
  · rw [complete_read rfl rfl, slaveRead_started]
    simp only [State.mid, State.shaken, State.moveTo, ← he]
  · rw [complete_write rfl rfl, slaveWrite_started]
    simp only [State.mid, State.shaken, State.moveTo, ← he]

/-- Setup, strobe and release with their waits, the engine idle, nothing failing and the caller staying. -/
theorem drive_handshake {b : State → Nat → Act} {rw : Direction} {sla reg : Reg7} (n : Nat) (hp : s.phase = .running op pc)
    (he : s.eng = .idle) (hl : s.linkUp 3) (hc : s.callerStays 4)
    (h0 : ∀ u, b u pc = .control false (controlWordOf rw sla reg ctlIdle))
    (h1 : ∀ u, b u (pc + 1) = .wait true)
    (h2 : ∀ u, b u (pc + 2) = .control true (controlWordOf rw sla reg ctlStrobe))
    (h3 : ∀ u, b u (pc + 3) = .wait true)
    (h4 : ∀ u, b u (pc + 4) = .control true (controlWordOf rw sla reg ctlIdle))
    (h5 : ∀ u, b u (pc + 5) = .wait false) :
    drive b (n + 6) s = drive b n ((s.shaken rw sla reg).moveTo op (pc + 6)) := by
  have hdone : ∀ t : State, t.eng = .idle → t.complete = t := fun t h => complete_of_idle h
  have hidle : ∀ (t : State) (x : Txn), t.eng = .busy x → t.complete.eng = .idle := by
    intro t x h
    unfold State.complete
    simp only [h]
    split <;> rfl
  generalize hX : ({ s with rxd := none, eng := .busy ⟨rw, sla, reg, s.txd⟩ } : State) = X
  have hXl : ∀ k, X.complete.linkFails k = s.linkFails k := by
    subst hX
    intro k
    unfold State.complete State.slaveWrite State.slaveRead
    dsimp only
    split
    · split
      · rfl
      · split <;> rfl
    · split
      · rfl
      · split <;> rfl
  have hXc : ∀ k, X.complete.callerStops k = s.callerStops k := by
    subst hX
    intro k
    unfold State.complete State.slaveWrite State.slaveRead
    dsimp only
    split
    · split
      · rfl
      · split <;> rfl
    · split
      · rfl
      · split <;> rfl
  have hXe : X.complete.eng = .idle := hidle X _ (by subst hX; rfl)
  rw [drive_running hp (by rw [h0]; exact perform_setup he (by simp) (hl 0 (by omega)))]
  rw [drive_running rfl (by rw [h1]; exact mid_wait (fun _ => hc 0 (by omega))), hdone s he]
  rw [drive_running rfl (by
    rw [h2]; exact mid_control_rise he (by simp) (by simp) (hl 1 (by omega)) (fun _ => hc 1 (by omega)))]
  simp only [controlWordOf_rw, controlWordOf_sla, controlWordOf_reg, hX]
  rw [drive_running rfl (by rw [h3]; exact mid_wait (fun _ => by subst hX; exact hc 2 (by omega)))]
  rw [drive_running rfl (by
    rw [h4]; exact mid_control_noGo hXe (by simp) (by rw [hXl]; exact hl 2 (by omega)) (fun _ => by rw [hXc]; exact hc 3 (by omega)))]
  rw [drive_running rfl (by rw [h5]; exact mid_wait nofun), hdone _ hXe]
  rw [← started_complete s he, hX]
  simp [handshake, controlWordOf_bytes, ctlIdle, ctlStrobe]

@[simp] theorem shaken_eng (s : State) (rw : Direction) (sla reg : Reg7) : (s.shaken rw sla reg).eng = s.eng := by
  cases rw <;> rfl
@[simp] theorem shaken_link (s : State) (rw : Direction) (sla reg : Reg7) :
    (s.shaken rw sla reg).link = s.link.skip 3 := by cases rw <;> rfl
@[simp] theorem shaken_caller (s : State) (rw : Direction) (sla reg : Reg7) :
    (s.shaken rw sla reg).caller = s.caller.skip 4 := by cases rw <;> rfl
@[simp] theorem shaken_noise (s : State) (rw : Direction) (sla reg : Reg7) : (s.shaken rw sla reg).noise = s.noise := by
  cases rw <;> rfl
@[simp] theorem shaken_trace (s : State) (rw : Direction) (sla reg : Reg7) :
    (s.shaken rw sla reg).trace = s.trace ++ handshake rw sla reg := by cases rw <;> rfl

/-- The state an I2C byte operation leaves that reports rep, with l commands from the setup WRITE on and tr after the handshake. -/
def State.concluded (s : State) (rw : Direction) (sla reg : Reg7) (rep : Report) (l : Nat) (tr : List Traffic) : State :=
  { s.shaken rw sla reg with
    phase := .idle
    buf := none
    report := rep
    link := s.link.skip l
    noise := s.noise.skip 3
    trace := s.trace ++ (handshake rw sla reg ++ tr) }

theorem shaken_inside (s : State) (rw : Direction) (sla reg : Reg7) (op : Instr) (k : Nat) (b : Option (List Byte)) :
    (s.inside op k b).shaken rw sla reg = (s.shaken rw sla reg).inside op k b := by
  cases rw
  · unfold State.shaken State.slaveRead State.inside
    cases hb : s.bus with
    | lawless => rfl
    | wellBehaved a f => dsimp only; split <;> simp [hb]
  · unfold State.shaken State.slaveWrite State.inside
    cases hb : s.bus with
    | lawless => rfl
    | wellBehaved a f => dsimp only; split <;> simp [hb]

theorem inside_moveTo (s : State) (op : Instr) (k j : Nat) (b : Option (List Byte)) :
    (s.inside op k b).moveTo op j = s.inside op j b := rfl

/-- The handshake of a byte operation that starts it in step k of operation op, and the status READ after it: the operation has
met NoAcknowledge, or goes on. -/
theorem drive_checked {b : State → Nat → Act} {rw : Direction} {sla reg : Reg7} {k : Nat} {bs : Option (List Byte)} {ack : Bool}
    (n : Nat) (he : s.eng = .idle) (hl : s.linkUp 4) (hc : s.callerStays 4)
    (h0 : ∀ u, b u k = .control false (controlWordOf rw sla reg ctlIdle))
    (h1 : ∀ u, b u (k + 1) = .wait true)
    (h2 : ∀ u, b u (k + 2) = .control true (controlWordOf rw sla reg ctlStrobe))
    (h3 : ∀ u, b u (k + 3) = .wait true)
    (h4 : ∀ u, b u (k + 4) = .control true (controlWordOf rw sla reg ctlIdle))
    (h5 : ∀ u, b u (k + 5) = .wait false)
    (h6 : ∀ u, b u (k + 6) = .status sla reg)
    (ha : (s.shaken rw sla reg).nack = some (!ack)) :
    drive b (n + 7) (s.inside op k bs) =
      let t := s.concluded rw sla reg .none 4 [.read 47 3 (some (s.statusWord (!ack)))]
      if ack then drive b n (t.inside op (k + 7) (some (s.statusWord false)))
      else .next ((t.inside op (k + 6) bs).raised op (.noAcknowledge sla reg)) := by
  have hl3 := hl 3 (by omega)
  rw [show n + 7 = (n + 1) + 6 from rfl]
  rw [drive_handshake (s := s.inside op k bs) (n + 1) rfl he (fun k hk => hl k (by omega)) hc h0 h1 h2 h3 h4 h5]
  rw [shaken_inside, inside_moveTo]
  rw [drive_running rfl (by
    rw [h6]
    exact perform_status (n := !ack) (by simpa [State.linkFails, State.inside] using hl3) (by simpa [State.inside] using he) ha)]
  cases ack with
  | false =>
    simp only [Bool.not_false, if_true, Bool.false_eq_true, if_false]
    rw [drive_atRest (atRest_of_restPhase (op := op) (ok := false) rfl)]
    simp [State.raised, State.inside, State.concluded, State.statusWord, State.noiseAt]
  | true =>
    simp [State.moveTo, State.inside, State.concluded, State.statusWord, State.noiseAt]

/-- I2C_READ_BYTE, the engine idle, no command failing and the caller staying (R185). -/
theorem i2cRead_closed {sla reg : Reg7} (hi : s.phase = .idle) (he : s.eng = .idle) (hl : s.linkUp 5)
    (hc : s.callerStays 4) : exec (.i2cReadByte reg.toNat sla.toNat) s = .next
      (if (s.slaveRead sla reg).1.ack then
        s.concluded .read sla reg (.ok (.byte (s.slaveRead sla reg).1.data)) 5
          [.read 47 3 (some (s.statusWord false)), .read 48 1 (some [(s.slaveRead sla reg).1.data])]
      else s.concluded .read sla reg (.error (.noAcknowledge sla reg)) 4 [.read 47 3 (some (s.statusWord true))]) := by
  have hb := i2cReadByteBody_of reg sla
  have hl4 := hl 4 (by omega)
  show request _ (i2cReadByteBody reg.toNat sla.toNat) s = _
  rw [request_idle hi, show opFuel = 57 + 7 from rfl, accept_eq_inside]
  rw [drive_checked (rw := .read) (sla := sla) (reg := reg) (ack := (s.slaveRead sla reg).1.ack) 57 he
    (fun k hk => hl k (by omega)) hc (fun u => by rw [hb]; rfl) (fun u => by rw [hb]; rfl)
    (fun u => by rw [hb]; rfl) (fun u => by rw [hb]; rfl) (fun u => by rw [hb]; rfl) (fun u => by rw [hb]; rfl)
    (fun u => by rw [hb]; rfl) rfl]
  dsimp only
  split
  · rename_i hack
    rw [hack]
    rw [drive_running (n := 56) rfl (by
      rw [hb]
      exact perform_receive (d := (s.slaveRead sla reg).1.data)
        (by simpa [State.linkFails, State.inside, State.concluded] using hl4) (by simpa [State.inside, State.concluded] using he)
        (by simp [State.inside, State.concluded, State.shaken, hack]))]
    rw [drive_running (n := 55) rfl (by rw [hb]; rfl), drive_atRest (fun i k h => by cases h)]
    simp [State.returned, State.moveTo, State.inside, State.concluded, byteAt]
  · rename_i hack
    simp only [Bool.not_eq_true] at hack
    simp [State.raised, State.inside, State.concluded, hack, restPhase, reportOf]

/-- The state after the data WRITE of a byte write. -/
def State.loaded (s : State) (d : Byte) : State :=
  { s with txd := d, link := s.link.skip 1, trace := s.trace ++ [.write 48 [d] true] }

/-- I2C_WRITE_BYTE, the engine idle, no command failing and the caller staying (R186). -/
theorem i2cWrite_closed {sla reg : Reg7} {d : Byte} (hi : s.phase = .idle) (he : s.eng = .idle) (hl : s.linkUp 5)
    (hc : s.callerStays 4) : exec (.i2cWriteByte reg.toNat d sla.toNat) s = .next
      ((s.loaded d).concluded .write sla reg
        (if (s.slaveWrite sla reg d).1 then .ok .nothing else .error (.noAcknowledge sla reg)) 4
        [.read 47 3 (some (s.statusWord (!(s.slaveWrite sla reg d).1)))]) := by
  have hb := i2cWriteByteBody_of reg sla d
  have hsl : ((s.loaded d).slaveWrite sla reg d).1 = (s.slaveWrite sla reg d).1 := by
    unfold State.slaveWrite State.loaded
    cases hbus : s.bus with
    | lawless => rfl
    | wellBehaved a f => dsimp only; split <;> rfl
  show request _ (i2cWriteByteBody reg.toNat d sla.toNat) s = _
  rw [request_idle hi, show opFuel = 56 + 7 + 1 from rfl, accept_eq_inside]
  rw [drive_running (t := (s.loaded d).inside (.i2cWriteByte reg.toNat d sla.toNat) 1 none) rfl (by
    rw [hb]
    show perform _ 0 (.write 48 [d]) _ = _
    have h0 : (s.inside (.i2cWriteByte reg.toNat d sla.toNat) 0 none).linkFails 0 = false := hl 0 (by omega)
    simp only [perform]
    rw [doWrite_ok rfl rfl h0, store_txd, transmitWrite_idle (by exact he)]
    rfl)]
  rw [drive_checked (s := s.loaded d) (op := .i2cWriteByte reg.toNat d sla.toNat) (k := 1) (bs := none) (rw := .write)
    (sla := sla) (reg := reg) (ack := (s.slaveWrite sla reg d).1) 56 (by exact he)
    (fun k hk => by simpa [State.linkFails, State.loaded] using hl (1 + k) (by omega)) hc (fun u => by rw [hb]; rfl)
    (fun u => by rw [hb]; rfl)
    (fun u => by rw [hb]; rfl) (fun u => by rw [hb]; rfl) (fun u => by rw [hb]; rfl) (fun u => by rw [hb]; rfl)
    (fun u => by rw [hb]; rfl) (by rw [← hsl]; rfl)]
  dsimp only
  split
  · rename_i hack
    rw [drive_running (n := 55) rfl (by rw [hb]; rfl), drive_atRest (fun i k h => by cases h)]
    simp [State.returned, State.inside, State.concluded, hack, State.statusWord, State.loaded, State.noiseAt]
  · rename_i hack
    simp only [Bool.not_eq_true] at hack
    simp [State.raised, State.inside, State.concluded, hack, restPhase, reportOf, State.statusWord, State.loaded, State.noiseAt]

end Sys2Proof.Machine
end

