-- ==== Sys2Proof/Laws/Memory.lean ====
section
/-! SUPPORT. The register file of a well-behaved slave: read after write, and its canonical form. -/

namespace Sys2Proof.Machine

theorem Memory.read_cell_append (a : Nat) (v : Byte) (m : Memory) (b : Nat)
    (h : b ≠ a ∨ v ≠ Memory.unlisted) :
    Memory.read (Memory.cell a v ++ m) b = if b = a then v else Memory.read m b := by
  unfold Memory.cell
  by_cases hv : v = Memory.unlisted
  · simp only [hv, if_true, List.nil_append]
    rw [if_neg (by rcases h with h | h <;> simp_all)]
  · simp only [hv, if_false, List.cons_append, List.nil_append, Memory.read]
    by_cases hb : b = a
    · simp [hb]
    · rw [if_neg hb, if_neg (fun e => hb e.symm)]

/-- Below a lower bound of the listed addresses every byte is unlisted. -/
theorem Memory.read_below {m : Memory} {lo a : Nat} (hm : Memory.wfFrom lo m = true) (h : a < lo) :
    Memory.read m a = Memory.unlisted := by
  induction m generalizing lo with
  | nil => rfl
  | cons c rest ih =>
    obtain ⟨k, v⟩ := c
    simp only [Memory.wfFrom, Bool.and_eq_true, decide_eq_true_eq] at hm
    obtain ⟨⟨⟨h1, -⟩, -⟩, h4⟩ := hm
    rw [Memory.read, if_neg (by omega)]
    exact ih h4 (by omega)

/-- Read after write, over a register file in canonical form. -/
theorem Memory.read_write {m : Memory} {lo : Nat} (hm : Memory.wfFrom lo m = true) (a : Nat) (v : Byte) (b : Nat) :
    Memory.read (Memory.write m a v) b = if b = a then v else Memory.read m b := by
  induction m generalizing lo with
  | nil =>
    unfold Memory.write Memory.cell
    by_cases hv : v = Memory.unlisted <;> by_cases hb : b = a <;> simp [hv, hb, Memory.read, Ne.symm (a := b) (b := a)]
  | cons c rest ih =>
    obtain ⟨k, w⟩ := c
    have hm' := hm
    simp only [Memory.wfFrom, Bool.and_eq_true, decide_eq_true_eq] at hm'
    obtain ⟨⟨⟨h1, h2⟩, h3⟩, h4⟩ := hm'
    unfold Memory.write
    by_cases hak : a < k
    · rw [if_pos hak]
      by_cases hv : b ≠ a ∨ v ≠ Memory.unlisted
      · exact Memory.read_cell_append a v _ b hv
      · push Not at hv
        obtain ⟨rfl, rfl⟩ := hv
        rw [if_pos rfl, Memory.cell, if_pos rfl, List.nil_append, Memory.read, if_neg (by omega)]
        exact Memory.read_below h4 (by omega)
    · rw [if_neg hak]
      by_cases hk : a = k
      · subst hk
        rw [if_pos rfl]
        by_cases hv : b ≠ a ∨ v ≠ Memory.unlisted
        · rw [Memory.read_cell_append a v _ b hv]
          by_cases hb : b = a
          · simp [hb]
          · rw [if_neg hb, if_neg hb, Memory.read, if_neg (fun e => hb e.symm)]
        · push Not at hv
          obtain ⟨rfl, rfl⟩ := hv
          rw [if_pos rfl, Memory.cell, if_pos rfl, List.nil_append]
          exact Memory.read_below h4 (by omega)
      · rw [if_neg hk, Memory.read, Memory.read]
        by_cases hb : k = b
        · rw [if_pos hb, if_pos hb, if_neg (by omega)]
        · rw [if_neg hb, if_neg hb]
          exact ih h4

/-- A write at an address of the register file keeps the canonical form. -/
theorem Memory.wfFrom_write {m : Memory} {lo a : Nat} (hm : Memory.wfFrom lo m = true) (hlo : lo ≤ a) (ha : a < 128)
    (v : Byte) : Memory.wfFrom lo (Memory.write m a v) = true := by
  have cell_wf : ∀ {lo : Nat} {m : Memory}, lo ≤ a → Memory.wfFrom lo m = true → Memory.wfFrom (a + 1) m = true →
      Memory.wfFrom lo (Memory.cell a v ++ m) = true := by
    intro lo m h1 h2 h3
    unfold Memory.cell
    by_cases hv : v = Memory.unlisted
    · simpa [hv] using h2
    · simp [hv, Memory.wfFrom, h1, ha, h3]
  induction m generalizing lo with
  | nil => simpa [Memory.write] using cell_wf hlo (m := []) rfl rfl
  | cons c rest ih =>
    obtain ⟨k, w⟩ := c
    have hm' := hm
    simp only [Memory.wfFrom, Bool.and_eq_true, decide_eq_true_eq] at hm'
    obtain ⟨⟨⟨h1, h2⟩, h3⟩, h4⟩ := hm'
    have weaken : ∀ {x y : Nat} {m : Memory}, y ≤ x → Memory.wfFrom x m = true → Memory.wfFrom y m = true := by
      intro x y m hxy hx
      cases m with
      | nil => rfl
      | cons c m =>
        obtain ⟨k, w⟩ := c
        simp only [Memory.wfFrom, Bool.and_eq_true, decide_eq_true_eq] at hx ⊢
        exact ⟨⟨⟨by omega, hx.1.1.2⟩, hx.1.2⟩, hx.2⟩
    unfold Memory.write
    by_cases hak : a < k
    · rw [if_pos hak]
      exact cell_wf hlo hm (by simp [Memory.wfFrom, h2, h3, h4]; omega)
    · rw [if_neg hak]
      by_cases hk : a = k
      · subst hk
        rw [if_pos rfl]
        exact cell_wf hlo (weaken (by omega) h4) h4
      · rw [if_neg hk]
        simp only [Memory.wfFrom, Bool.and_eq_true, decide_eq_true_eq]
        exact ⟨⟨⟨h1, h2⟩, h3⟩, ih h4 (by omega)⟩

/-- Every memory operation keeps the canonical form. -/
theorem Memory.wf_write {m : Memory} (hm : Memory.wf m = true) (reg : Reg7) (v : Byte) :
    Memory.wf (Memory.write m reg.toNat v) = true :=
  Memory.wfFrom_write hm (Nat.zero_le _) reg.isLt v

/-- A register of a slave reads the byte last written to it, and every other register as before. -/
theorem Memory.read_write_reg {m : Memory} (hm : Memory.wf m = true) (reg r : Reg7) (v : Byte) :
    Memory.read (Memory.write m reg.toNat v) r.toNat = if r = reg then v else Memory.read m r.toNat := by
  rw [Memory.read_write hm]
  simp [BitVec.toNat_inj]

end Sys2Proof.Machine
end

