-- ==== Sys2Proof/Laws/Params.lean ====
section
/-! SUPPORT. What R7's and R195's constraints give for the parameters a state holds, and the decoding of field values. -/

namespace Sys2Proof

theorem Board.params_ok (b : Board) : b.params.admissible = true := b.ok

section
variable (b : Board)

/-- The constraints of R7's table, unfolded. -/
theorem Board.facts : 8 ≤ b.params.ioRouteLen ∧ b.params.capsLite.hasFrontPanelPins = false ∧
    b.params.pinBits.toList.Nodup ∧ [b.params.collectOr, b.params.collectAnd, b.params.collectNand].Nodup ∧
    b.params.gpioEnBit ≠ b.params.gpioOutBit ∧ b.params.routeGpioEnabled.getLsbD b.params.gpioEnBit = true ∧
    [b.params.clkFrontPanelA, b.params.clkFrontPanelB, b.params.clkPllInput, b.params.clkTargetIOIn,
      b.params.clkTargetIOOut].Nodup ∧
    [b.params.clkOutDisabled, b.params.clkOutClkgen, b.params.clkOutGlitch].Nodup ∧
    [b.params.trigBasic, b.params.trigSadMatch, b.params.trigAdvancedPattern, b.params.trigDecodeIO].Nodup ∧
    b.params.pll.admissible = true := by
  have h := b.ok
  simp only [Params.admissible, Bool.and_eq_true, decide_eq_true_eq, Bool.not_eq_true'] at h
  obtain ⟨⟨⟨⟨⟨⟨⟨⟨⟨⟨⟨⟨⟨⟨⟨⟨h1, -⟩, h2⟩, h3⟩, h4⟩, -⟩, h5⟩, h6⟩, -⟩, -⟩, -⟩, -⟩, h7⟩, h8⟩, h9⟩, -⟩, h10⟩ := h
  exact ⟨h1, h2, h3, h4, h5, h6, h7, h8, h9, h10⟩

/-- R36: IORoute has at least eight bytes. -/
theorem Board.ioRouteLen_ge : 8 ≤ b.params.ioRouteLen := b.facts.1

/-- R23: the one capability the source fixes. -/
@[simp] theorem Board.lite_no_front_panel : (b.params.capsOf .lite).hasFrontPanelPins = false := b.facts.2.1

/-- P4: `PIN_BIT` is injective. -/
theorem Board.pinBit_inj {p q : Pin} (h : b.params.pinBit p = b.params.pinBit q) : p = q := by
  have hn := b.facts.2.2.1
  simp only [Six.toList, List.nodup_cons, List.mem_cons, List.not_mem_nil, not_or, or_false, not_false_eq_true,
    List.nodup_nil, and_true] at hn
  cases p <;> cases q <;> simp only [Params.pinBit, Fin.val_inj] at h <;>
    first | rfl | (exfalso; simp_all)

/-- P4: `PIN_BIT` is a bit of the pin mask, bits 0..5. -/
theorem Board.pinBit_lt (p : Pin) : b.params.pinBit p < 6 := by
  cases p <;> exact Fin.isLt _

/-- P5: `COLLECT_CODE` is injective. -/
theorem Board.collectCode_inj {m n : CollectionMode} (h : b.params.collectCode m = b.params.collectCode n) : m = n := by
  have hn := b.facts.2.2.2.1
  simp only [List.nodup_cons, List.mem_cons, List.not_mem_nil, not_or, or_false, not_false_eq_true, List.nodup_nil,
    and_true] at hn
  cases m <;> cases n <;> simp only [Params.collectCode] at h <;> first | rfl | (exfalso; simp_all)

/-- P7: the two GPIO bits are distinct. -/
theorem Board.gpioBits_ne : b.params.gpioEnBit.val ≠ b.params.gpioOutBit.val :=
  fun h => b.facts.2.2.2.2.1 (Fin.ext h)

/-- P7: GPIO-enabled mode has the GPIO-enabled bit set. -/
theorem Board.gpioEnabled_bit : (b.params.routeCode .gpioEnabled).getLsbD b.params.gpioEnBit = true :=
  b.facts.2.2.2.2.2.1

/-- P9: `CLKSRC_CODE` is injective. -/
theorem Board.clkSrcCode_inj {m n : ClockSource} (h : b.params.clkSrcCode m = b.params.clkSrcCode n) : m = n := by
  have hn := b.facts.2.2.2.2.2.2.1
  simp only [List.nodup_cons, List.mem_cons, List.not_mem_nil, not_or, or_false, not_false_eq_true, List.nodup_nil,
    and_true] at hn
  cases m <;> cases n <;> simp only [Params.clkSrcCode] at h <;> first | rfl | (exfalso; simp_all)

/-- P10: `CLKOUT_CODE` is injective. -/
theorem Board.clkOutCode_inj {m n : TargetClockOut} (h : b.params.clkOutCode m = b.params.clkOutCode n) : m = n := by
  have hn := b.facts.2.2.2.2.2.2.2.1
  simp only [List.nodup_cons, List.mem_cons, List.not_mem_nil, not_or, or_false, not_false_eq_true, List.nodup_nil,
    and_true] at hn
  cases m <;> cases n <;> simp only [Params.clkOutCode] at h <;> first | rfl | (exfalso; simp_all)

/-- P11: `TRIGMOD_CODE` is injective. -/
theorem Board.trigModCode_inj {m n : TriggerModule} (h : b.params.trigModCode m = b.params.trigModCode n) : m = n := by
  have hn := b.facts.2.2.2.2.2.2.2.2.1
  simp only [List.nodup_cons, List.mem_cons, List.not_mem_nil, not_or, or_false, not_false_eq_true, List.nodup_nil,
    and_true] at hn
  cases m <;> cases n <;> simp only [Params.trigModCode] at h <;> first | rfl | (exfalso; simp_all)

/-- R195's constraints, unfolded. -/
theorem Board.pll_facts :
    let m := b.params.pll
    [m.mReg, m.nReg, m.hiReg].Nodup ∧ (8 ≤ m.mW ∧ 8 ≤ m.nW) ∧ (m.mHiLo + (m.mW - 8) ≤ 8 ∧ m.nHiLo + (m.nW - 8) ≤ 8) ∧
    Config.countOnes m.keepMask = 2 ∧ (m.mW - 8) + (m.nW - 8) + 1 + 1 + 2 = 8 ∧
    (Config.fieldMask m.mHiLo (m.mW - 8) ||| Config.fieldMask m.nHiLo (m.nW - 8)
      ||| Config.fieldMask m.bypassBit 1 ||| Config.fieldMask m.hsBit 1 ||| m.keepMask = 0xFF#8) ∧
    m.outBase + 5 ≤ 127 ∧
    Config.countOnes (Config.fieldMask m.outEnBit 1 ||| Config.fieldMask m.outInvBit 1
      ||| Config.fieldMask m.outSlewLo 2 ||| Config.fieldMask m.outDivLo 3) = 7 ∧
    m.csDiffBit ≠ m.csSeBit ∧ m.cs1Reg ≠ m.cs2Reg := by
  have h := b.facts.2.2.2.2.2.2.2.2.2
  simp only [PllMap.admissible, Bool.and_eq_true, decide_eq_true_eq] at h
  obtain ⟨⟨⟨⟨⟨⟨⟨⟨⟨⟨⟨⟨⟨⟨h1, h2⟩, h3⟩, h4⟩, h5⟩, h6⟩, -⟩, -⟩, -⟩, -⟩, -⟩, h7⟩, h8⟩, h9⟩, h10⟩ := h
  exact ⟨h1, h2, h3, h4, h5, h6, h7, h8, h9, h10⟩

end

/-! The fields of the PLL chip's packed registers are disjoint -/

theorem fieldMask_getLsbD (lo w j : Nat) :
    (Config.fieldMask lo w).getLsbD j = (decide (j < 8) && decide (lo ≤ j) && decide (j < lo + w)) :=
  Machine.mask_getLsbD lo w j

theorem countOnes_eq (b : Byte) : Config.countOnes b = ((List.range 8).map fun j => (b.getLsbD j).toNat).sum := by
  unfold Config.countOnes
  induction List.range 8 with
  | nil => rfl
  | cons a l ih => cases h : b.getLsbD a <;> simp [h, ih]; omega

theorem countOnes_fieldMask {lo w : Nat} (h : lo + w ≤ 8) : Config.countOnes (Config.fieldMask lo w) = w :=
  (by decide : ∀ lo, lo ≤ 8 → ∀ w, w ≤ 8 → lo + w ≤ 8 → Config.countOnes (Config.fieldMask lo w) = w)
    lo (by omega) w (by omega) h

theorem countOnes_fieldMask_le {lo w : Nat} (hl : lo ≤ 8) (h : w ≤ 8) : Config.countOnes (Config.fieldMask lo w) ≤ w :=
  (by decide : ∀ lo, lo ≤ 8 → ∀ w, w ≤ 8 → Config.countOnes (Config.fieldMask lo w) ≤ w) lo hl w h

/-- Five masks that cover a byte and count eight bits in all: each bit is in exactly one of them. -/
theorem one_mask_each {a b c d e : Byte} (hor : a ||| b ||| c ||| d ||| e = 0xFF#8)
    (hn : Config.countOnes a + Config.countOnes b + Config.countOnes c + Config.countOnes d + Config.countOnes e = 8) :
    ∀ j, j < 8 → (a.getLsbD j).toNat + (b.getLsbD j).toNat + (c.getLsbD j).toNat + (d.getLsbD j).toNat +
      (e.getLsbD j).toNat = 1 := by
  have hj : ∀ j, j < 8 → 1 ≤ (a.getLsbD j).toNat + (b.getLsbD j).toNat + (c.getLsbD j).toNat + (d.getLsbD j).toNat +
      (e.getLsbD j).toNat := by
    intro j hj
    have := congrArg (fun x => x.getLsbD j) hor
    simp only [BitVec.getLsbD_or] at this
    rw [(by decide : ∀ j, j < 8 → (0xFF#8).getLsbD j = true) j hj] at this
    revert this
    generalize a.getLsbD j = A; generalize b.getLsbD j = B; generalize c.getLsbD j = C
    generalize d.getLsbD j = D; generalize e.getLsbD j = E
    revert A B C D E
    decide
  simp only [countOnes_eq, show List.range 8 = [0, 1, 2, 3, 4, 5, 6, 7] from rfl, List.map_cons, List.map_nil, List.sum_cons,
    List.sum_nil] at hn
  have h0 := hj 0; have h1 := hj 1; have h2 := hj 2; have h3 := hj 3
  have h4 := hj 4; have h5 := hj 5; have h6 := hj 6; have h7 := hj 7
  intro j hj8
  have : j = 0 ∨ j = 1 ∨ j = 2 ∨ j = 3 ∨ j = 4 ∨ j = 5 ∨ j = 6 ∨ j = 7 := by omega
  rcases this with rfl | rfl | rfl | rfl | rfl | rfl | rfl | rfl <;> omega

/-- Four masks whose union counts as many bits as they do together: each bit is in at most one of them. -/
theorem at_most_one_mask {a b c d : Byte}
    (hn : Config.countOnes a + Config.countOnes b + Config.countOnes c + Config.countOnes d ≤
      Config.countOnes (a ||| b ||| c ||| d)) :
    ∀ j, j < 8 → (a.getLsbD j).toNat + (b.getLsbD j).toNat + (c.getLsbD j).toNat + (d.getLsbD j).toNat ≤ 1 := by
  have hj : ∀ j, ((a ||| b ||| c ||| d).getLsbD j).toNat ≤ (a.getLsbD j).toNat + (b.getLsbD j).toNat +
      (c.getLsbD j).toNat + (d.getLsbD j).toNat := by
    intro j
    simp only [BitVec.getLsbD_or]
    generalize a.getLsbD j = A; generalize b.getLsbD j = B; generalize c.getLsbD j = C; generalize d.getLsbD j = D
    revert A B C D
    decide
  have hb : ∀ j, ((a ||| b ||| c ||| d).getLsbD j).toNat ≤ 1 := fun j => Bool.toNat_le _
  generalize a ||| b ||| c ||| d = o at *
  simp only [countOnes_eq, show List.range 8 = [0, 1, 2, 3, 4, 5, 6, 7] from rfl, List.map_cons, List.map_nil, List.sum_cons,
    List.sum_nil] at hn
  have h0 := hj 0; have h1 := hj 1; have h2 := hj 2; have h3 := hj 3
  have h4 := hj 4; have h5 := hj 5; have h6 := hj 6; have h7 := hj 7
  intro j hj8
  have : j = 0 ∨ j = 1 ∨ j = 2 ∨ j = 3 ∨ j = 4 ∨ j = 5 ∨ j = 6 ∨ j = 7 := by omega
  have k := hb j
  rcases this with rfl | rfl | rfl | rfl | rfl | rfl | rfl | rfl <;> omega

section
variable (b : Board)

/-- D27: each bit of the PLL's third register is in exactly one of its fields and `KEEP_MASK`. -/
theorem Board.hi_fields_disjoint {j : Nat} (hj : j < 8) :
    let m := b.params.pll
    (decide (m.mHiLo ≤ j) && decide (j < m.mHiLo + (m.mW - 8))).toNat +
      (decide (m.nHiLo ≤ j) && decide (j < m.nHiLo + (m.nW - 8))).toNat +
      (decide (j = m.bypassBit.val)).toNat + (decide (j = m.hsBit.val)).toNat + (m.keepMask.getLsbD j).toNat = 1 := by
  intro m
  obtain ⟨-, -, hw, hk, hs, hor, -⟩ := b.pll_facts
  have := one_mask_each hor (by
    rw [countOnes_fieldMask hw.1, countOnes_fieldMask hw.2, countOnes_fieldMask (by omega), countOnes_fieldMask (by omega), hk]
    exact hs) j hj
  have e : ∀ k : Fin 8, (decide (k.val ≤ j) && decide (j < k.val + 1)) = decide (j = k.val) := by
    intro k
    rw [← Bool.decide_and]
    exact decide_eq_decide.2 (by omega)
  simp only [fieldMask_getLsbD, hj, decide_true, Bool.true_and, e] at this
  exact this

/-- R199: each bit of an output register is in at most one of its four fields. -/
theorem Board.output_fields_disjoint {j : Nat} (hj : j < 8) :
    let m := b.params.pll
    (decide (j = m.outEnBit.val)).toNat + (decide (j = m.outInvBit.val)).toNat +
      (decide (m.outSlewLo.val ≤ j) && decide (j < m.outSlewLo.val + 2)).toNat +
      (decide (m.outDivLo.val ≤ j) && decide (j < m.outDivLo.val + 3)).toNat ≤ 1 := by
  intro m
  obtain ⟨-, -, -, -, -, -, -, h7, -⟩ := b.pll_facts
  have h1 := countOnes_fieldMask_le (lo := m.outEnBit.val) (w := 1) (by omega) (by omega)
  have h2 := countOnes_fieldMask_le (lo := m.outInvBit.val) (w := 1) (by omega) (by omega)
  have h3 := countOnes_fieldMask_le (lo := m.outSlewLo.val) (w := 2) (by omega) (by omega)
  have h4 := countOnes_fieldMask_le (lo := m.outDivLo.val) (w := 3) (by omega) (by omega)
  have := at_most_one_mask (Nat.le_trans (Nat.add_le_add (Nat.add_le_add (Nat.add_le_add h1 h2) h3) h4)
    (Nat.le_of_eq h7.symm)) j hj
  have e : ∀ k : Fin 8, (decide (k.val ≤ j) && decide (j < k.val + 1)) = decide (j = k.val) := by
    intro k
    rw [← Bool.decide_and]
    exact decide_eq_decide.2 (by omega)
  simp only [fieldMask_getLsbD, hj, decide_true, Bool.true_and, e] at this
  exact this

end

namespace Machine

/-- Decoding finds the one member with the code. -/
theorem memberOf_eq_some {α : Type} {l : List α} {code : α → Byte} {c : Byte} {m : α} (hm : m ∈ l) (h : code m = c)
    (hn : ∀ x ∈ l, code x = c → x = m) : memberOf l code c = some m := by
  unfold memberOf
  cases hf : l.find? (fun x => code x == c) with
  | none => exact absurd (by simpa using h) (List.find?_eq_none.1 hf m hm)
  | some x => rw [hn x (List.mem_of_find?_eq_some hf) (by simpa using List.find?_some hf)]

/-- Decoding finds none where no member has the code. -/
theorem memberOf_eq_none {α : Type} {l : List α} {code : α → Byte} {c : Byte} (h : ∀ x ∈ l, code x ≠ c) :
    memberOf l code c = none := by
  unfold memberOf
  rw [List.find?_eq_none]
  intro x hx
  simpa using h x hx

/-- A code of w bits is what a field of w bits holds, bit by bit. -/
theorem code_eq_getbits_iff {w : Nat} (hw : w ≤ 8) (c : BitVec w) (b : Byte) (lo : Nat) :
    c.setWidth 8 = getbits b lo w ↔ ∀ j, j < w → c.getLsbD j = b.getLsbD (lo + j) := by
  constructor
  · intro h j hj
    have := congrArg (fun x => x.getLsbD j) h
    simp only [BitVec.getLsbD_setWidth] at this
    rw [getbits_getLsbD _ _ _ _ (by omega)] at this
    simpa [hj, (by omega : j < 8)] using this
  · intro h
    apply byte_ext
    intro j hj
    rw [getbits_getLsbD _ _ _ _ hj, BitVec.getLsbD_setWidth]
    by_cases hw' : j < w
    · rw [h j hw']
      simp [hj, hw']
    · simp [hw', BitVec.getLsbD_of_ge _ _ (Nat.le_of_not_lt hw')]

/-- Widening a code loses nothing. -/
theorem setWidth_inj {w : Nat} (hw : w ≤ 8) {c d : BitVec w} (h : c.setWidth 8 = d.setWidth 8) : c = d := by
  apply BitVec.eq_of_getLsbD_eq
  intro j hj
  have := congrArg (fun x => x.getLsbD j) h
  simpa [BitVec.getLsbD_setWidth, (by omega : j < 8)] using this

end Machine

end Sys2Proof
end

