-- ==== Sys2Proof/Laws/PerInstr.lean ====
section
/-! SUPPORT. The round trip of the encoding, instruction by instruction: decoding the encoding of a well-formed instruction
gives it back. -/

namespace Sys2Proof

/-- A 16-bit argument is read back from its two bytes. -/
theorem wordOf_encode {n : Nat} (h : fitsWord n = true) : wordOf (BitVec.ofNat 8 (n % 256)) (BitVec.ofNat 8 (n / 256)) = n := by
  simp only [fitsWord, decide_eq_true_eq] at h
  simp only [wordOf, BitVec.toNat_ofNat]
  omega

/-- The arguments are read back from their bytes. -/
theorem wordsOf_encodeWords : ∀ {l : List Nat}, (∀ n ∈ l, fitsWord n = true) → wordsOf (encodeWords l) = some l
  | [], _ => rfl
  | n :: rest, h => by
    have ih := wordsOf_encodeWords (l := rest) (fun m hm => h m (List.mem_cons_of_mem _ hm))
    simp [encodeWords, encodeWord, wordsOf, ih, wordOf_encode (h n List.mem_cons_self)]

/-- A transport address is read back from its byte. -/
theorem toNat_encodeByte {n : Nat} (h : fitsByte n = true) : (BitVec.ofNat 8 n).toNat = n := by
  simp only [fitsByte, decide_eq_true_eq] at h
  simp only [BitVec.toNat_ofNat]
  omega

end Sys2Proof

namespace Sys2Proof.Laws.RoundTrip

/-- A well-formed instruction decodes from its encoding. -/
def Statement (i : Instr) : Prop := i.wellFormed = true → decode (encode i) = .ok i

theorem read (addr len : Nat) : Statement (.read addr len) := by
  intro h
  simp only [Instr.wellFormed, Bool.and_eq_true] at h
  simp [decode, encode, decodeOp, decodeRead, orArguments, encodeWord, toNat_encodeByte h.1, wordOf_encode h.2]

theorem write (addr : Nat) (payload : List Byte) : Statement (.write addr payload) := by
  intro h
  simp [decode, encode, decodeOp, decodeWrite, orArguments, toNat_encodeByte h]

theorem fieldSet (addr byteOff bitOff width inverted value : Nat) : Statement (.fieldSet addr byteOff bitOff width inverted value) := by
  intro h
  have hw : wordsOf (encodeWords [addr, byteOff, bitOff, width, inverted, value]) = some [addr, byteOff, bitOff, width, inverted, value] :=
    wordsOf_encodeWords (by simpa [Instr.wellFormed, and_assoc] using h)
  simp [decode, encode, decodeOp, decode6, orArguments, hw]

theorem fieldGet (addr byteOff bitOff width inverted : Nat) : Statement (.fieldGet addr byteOff bitOff width inverted) := by
  intro h
  have hw : wordsOf (encodeWords [addr, byteOff, bitOff, width, inverted]) = some [addr, byteOff, bitOff, width, inverted] :=
    wordsOf_encodeWords (by simpa [Instr.wellFormed, and_assoc] using h)
  simp [decode, encode, decodeOp, decode5, orArguments, hw]

theorem setPin (pin enabled : Nat) : Statement (.setPin pin enabled) := by
  intro h
  have hw : wordsOf (encodeWords [pin, enabled]) = some [pin, enabled] :=
    wordsOf_encodeWords (by simpa [Instr.wellFormed, and_assoc] using h)
  simp [decode, encode, decodeOp, decode2, orArguments, hw]

theorem getPin (pin : Nat) : Statement (.getPin pin) := by
  intro h
  have hw : wordsOf (encodeWords [pin]) = some [pin] :=
    wordsOf_encodeWords (by simpa [Instr.wellFormed, and_assoc] using h)
  simp [decode, encode, decodeOp, decode1, orArguments, hw]

theorem setCollectionMode (mode : Nat) : Statement (.setCollectionMode mode) := by
  intro h
  have hw : wordsOf (encodeWords [mode]) = some [mode] :=
    wordsOf_encodeWords (by simpa [Instr.wellFormed, and_assoc] using h)
  simp [decode, encode, decodeOp, decode1, orArguments, hw]

theorem getCollectionMode : Statement .getCollectionMode := by
  intro _
  rfl

theorem setIoRoute (pinIndex mode : Nat) : Statement (.setIoRoute pinIndex mode) := by
  intro h
  have hw : wordsOf (encodeWords [pinIndex, mode]) = some [pinIndex, mode] :=
    wordsOf_encodeWords (by simpa [Instr.wellFormed, and_assoc] using h)
  simp [decode, encode, decodeOp, decode2, orArguments, hw]

theorem getIoRoute (pinIndex : Nat) : Statement (.getIoRoute pinIndex) := by
  intro h
  have hw : wordsOf (encodeWords [pinIndex]) = some [pinIndex] :=
    wordsOf_encodeWords (by simpa [Instr.wellFormed, and_assoc] using h)
  simp [decode, encode, decodeOp, decode1, orArguments, hw]

theorem setGpioState (gpioPin state : Nat) : Statement (.setGpioState gpioPin state) := by
  intro h
  have hw : wordsOf (encodeWords [gpioPin, state]) = some [gpioPin, state] :=
    wordsOf_encodeWords (by simpa [Instr.wellFormed, and_assoc] using h)
  simp [decode, encode, decodeOp, decode2, orArguments, hw]

theorem getGpioState (gpioPin : Nat) : Statement (.getGpioState gpioPin) := by
  intro h
  have hw : wordsOf (encodeWords [gpioPin]) = some [gpioPin] :=
    wordsOf_encodeWords (by simpa [Instr.wellFormed, and_assoc] using h)
  simp [decode, encode, decodeOp, decode1, orArguments, hw]

theorem setPowerState (enabled : Nat) : Statement (.setPowerState enabled) := by
  intro h
  have hw : wordsOf (encodeWords [enabled]) = some [enabled] :=
    wordsOf_encodeWords (by simpa [Instr.wellFormed, and_assoc] using h)
  simp [decode, encode, decodeOp, decode1, orArguments, hw]

theorem getPowerState : Statement .getPowerState := by
  intro _
  rfl

theorem setGlitchOutEn (channel enabled : Nat) : Statement (.setGlitchOutEn channel enabled) := by
  intro h
  have hw : wordsOf (encodeWords [channel, enabled]) = some [channel, enabled] :=
    wordsOf_encodeWords (by simpa [Instr.wellFormed, and_assoc] using h)
  simp [decode, encode, decodeOp, decode2, orArguments, hw]

theorem getGlitchOutEn (channel : Nat) : Statement (.getGlitchOutEn channel) := by
  intro h
  have hw : wordsOf (encodeWords [channel]) = some [channel] :=
    wordsOf_encodeWords (by simpa [Instr.wellFormed, and_assoc] using h)
  simp [decode, encode, decodeOp, decode1, orArguments, hw]

theorem setClockSource (source : Nat) : Statement (.setClockSource source) := by
  intro h
  have hw : wordsOf (encodeWords [source]) = some [source] :=
    wordsOf_encodeWords (by simpa [Instr.wellFormed, and_assoc] using h)
  simp [decode, encode, decodeOp, decode1, orArguments, hw]

theorem getClockSource : Statement .getClockSource := by
  intro _
  rfl

theorem setTargetClockOut (mode : Nat) : Statement (.setTargetClockOut mode) := by
  intro h
  have hw : wordsOf (encodeWords [mode]) = some [mode] :=
    wordsOf_encodeWords (by simpa [Instr.wellFormed, and_assoc] using h)
  simp [decode, encode, decodeOp, decode1, orArguments, hw]

theorem getTargetClockOut : Statement .getTargetClockOut := by
  intro _
  rfl

theorem setTrigoutFpa (enabled : Nat) : Statement (.setTrigoutFpa enabled) := by
  intro h
  have hw : wordsOf (encodeWords [enabled]) = some [enabled] :=
    wordsOf_encodeWords (by simpa [Instr.wellFormed, and_assoc] using h)
  simp [decode, encode, decodeOp, decode1, orArguments, hw]

theorem getTrigoutFpa : Statement .getTrigoutFpa := by
  intro _
  rfl

theorem setTriggerModule (module : Nat) : Statement (.setTriggerModule module) := by
  intro h
  have hw : wordsOf (encodeWords [module]) = some [module] :=
    wordsOf_encodeWords (by simpa [Instr.wellFormed, and_assoc] using h)
  simp [decode, encode, decodeOp, decode1, orArguments, hw]

theorem getTriggerModule : Statement .getTriggerModule := by
  intro _
  rfl

theorem i2cReadByte (reg sla : Nat) : Statement (.i2cReadByte reg sla) := by
  intro h
  have hw : wordsOf (encodeWords [reg, sla]) = some [reg, sla] :=
    wordsOf_encodeWords (by simpa [Instr.wellFormed, and_assoc] using h)
  simp [decode, encode, decodeOp, decodeI2cRead, orArguments, hw]

theorem i2cWriteByte (reg : Nat) (data : Byte) (sla : Nat) : Statement (.i2cWriteByte reg data sla) := by
  intro h
  simp only [Instr.wellFormed, Bool.and_eq_true] at h
  simp [decode, encode, decodeOp, decodeI2cWrite, orArguments, encodeWord, wordOf_encode h.1, wordOf_encode h.2]

theorem pllIsPresent : Statement .pllIsPresent := by
  intro _
  rfl

theorem pllSetupPll (n m bypass highspeed num : Nat) : Statement (.pllSetupPll n m bypass highspeed num) := by
  intro h
  have hw : wordsOf (encodeWords [n, m, bypass, highspeed, num]) = some [n, m, bypass, highspeed, num] :=
    wordsOf_encodeWords (by simpa [Instr.wellFormed, and_assoc] using h)
  simp [decode, encode, decodeOp, decodeSetupPll, orArguments, hw]

theorem pllSetupDivider (setting clockSourceId divNum : Nat) : Statement (.pllSetupDivider setting clockSourceId divNum) := by
  intro h
  have hw : wordsOf (encodeWords [setting, clockSourceId, divNum]) = some [setting, clockSourceId, divNum] :=
    wordsOf_encodeWords (by simpa [Instr.wellFormed, and_assoc] using h)
  simp [decode, encode, decodeOp, decode3, orArguments, hw]

theorem pllSetupOutput (outNum invert enabled divSource slewRate : Nat) : Statement (.pllSetupOutput outNum invert enabled divSource slewRate) := by
  intro h
  have hw : wordsOf (encodeWords [outNum, invert, enabled, divSource, slewRate]) = some [outNum, invert, enabled, divSource, slewRate] :=
    wordsOf_encodeWords (by simpa [Instr.wellFormed, and_assoc] using h)
  simp [decode, encode, decodeOp, decode5, orArguments, hw]

theorem pllSetupClockSource (differential useIN0 useIN1 : Nat) : Statement (.pllSetupClockSource differential useIN0 useIN1) := by
  intro h
  have hw : wordsOf (encodeWords [differential, useIN0, useIN1]) = some [differential, useIN0, useIN1] :=
    wordsOf_encodeWords (by simpa [Instr.wellFormed, and_assoc] using h)
  simp [decode, encode, decodeOp, decode3, orArguments, hw]

theorem init (variant : Nat) : Statement (.init variant) := by
  intro h
  have hw : wordsOf (encodeWords [variant]) = some [variant] :=
    wordsOf_encodeWords (by simpa [Instr.wellFormed, and_assoc] using h)
  simp [decode, encode, decodeOp, decode1, orArguments, hw]

end Sys2Proof.Laws.RoundTrip
end

