-- ==== Sys2Proof/Tests/Slice0.lean ====
section
/-! SUPPORT. Tests. Expected results come from the test vectors of spec/95_test_vectors.md (named in each test's comment), whose
REF configuration is `({} : Board)`, or from the rule named. Then, for each statement with hypotheses, a witness that meets
them, clause by clause. -/

namespace Sys2Proof.Tests

open Sys2Proof.Machine

/-! States -/

/-- n draws that all answer no. -/
def calm (n : Nat) : Draws Bool := ⟨List.replicate n false, 0⟩

/-- The start of a vector of 95_test_vectors.md: the REF configuration, constructed for Rev1200, no transport failure, a caller
that stays; drawn bytes are 0xFE. -/
def base : State := { State.reset with
  cfg := {}
  variant := some .rev1200
  caps := some ⟨true, true, true⟩
  phase := .idle
  ioRoute := [0, 0, 0, 0, 0, 0, 0, 0]
  link := calm 24
  caller := calm 24
  noise := ⟨List.replicate 24 0xFE, 0⟩ }

/-- The same, constructed for Lite. -/
def lite : State := { base with variant := some .lite, caps := some ⟨false, true, false⟩ }

/-- The same, not constructed. -/
def fresh : State := { base with variant := none, caps := none, phase := .unconstructed }

/-- The same with a well-behaved slave at 0x69. -/
def chip (f : Memory) : State := { base with bus := .wellBehaved 0x69 f }

/-- Command k (from 0) fails. -/
def failAt (k : Nat) (s : State) : State := { s with link := ⟨List.replicate k false ++ [true], 0⟩ }

/-- The caller stops at its k-th chance (from 0). -/
def stopAt (k : Nat) (s : State) : State := { s with caller := ⟨List.replicate k false ++ [true], 0⟩ }

/-- The same board with the event policy OnChange. -/
def onChange : Board where
  params := { Params.ref with edgeFirePolicy := .onChange }

/-- The same board with gated glitch settings. -/
def gated : Board where
  params := { Params.ref with glitchGated := true }

/-- What f says of the next state of an outcome; nothing where there is none. -/
def got {α : Type} (f : State → α) : Out → Option α
  | .next t => some (f t)
  | _ => none

/-! Well-formedness: the widest arguments are well formed, one above is not -/

theorem test_fitsByte_widest : (Instr.read 255 65535).wellFormed = true := by decide
theorem test_fitsByte_refuses : (Instr.read 256 1).wellFormed = false := by decide
theorem test_fitsByte_refuses_write : (Instr.write 256 []).wellFormed = false := by decide
theorem test_fitsWord_refuses_first : (Instr.fieldSet 65536 0 0 0 0 0).wellFormed = false := by decide
theorem test_fitsWord_refuses_last : (Instr.fieldSet 0 0 0 0 0 65536).wellFormed = false := by decide
theorem test_fitsWord_refuses_length : (Instr.read 39 65536).wellFormed = false := by decide

/-! Decoding: one request for each constructor. First bytes are R81's opcodes and R88's selectors. -/

theorem test_decode_read : decode [0b1000_0000, 39, 1, 0] = .ok (.read 39 1) := by decide
theorem test_decode_write : decode [0b1100_0000, 40, 0x09] = .ok (.write 40 [0x09]) := by decide
theorem test_decode_fieldSet :
    decode [0b0000_0001, 55, 0, 5, 0, 1, 0, 1, 0, 1, 0, 0, 0] = .ok (.fieldSet 55 5 1 1 1 0) := by decide
theorem test_decode_fieldGet : decode [0b0000_0010, 39, 0, 0, 0, 6, 0, 2, 0, 0, 0] = .ok (.fieldGet 39 0 6 2 0) := by decide
theorem test_decode_setPin : decode [0b0001_0000, 3, 0, 1, 0] = .ok (.setPin 3 1) := by decide
theorem test_decode_getPin : decode [0b0001_0001, 5, 0] = .ok (.getPin 5) := by decide
theorem test_decode_setCollectionMode : decode [0b0001_0010, 2, 0] = .ok (.setCollectionMode 2) := by decide
theorem test_decode_getCollectionMode : decode [0b0001_0011] = .ok .getCollectionMode := by decide
theorem test_decode_setIoRoute : decode [0b0010_0000, 2, 0, 7, 0] = .ok (.setIoRoute 2 7) := by decide
theorem test_decode_getIoRoute : decode [0b0010_0001, 4, 0] = .ok (.getIoRoute 4) := by decide
theorem test_decode_setGpioState : decode [0b0010_0010, 5, 0, 2, 0] = .ok (.setGpioState 5 2) := by decide
theorem test_decode_getGpioState : decode [0b0010_0011, 6, 0] = .ok (.getGpioState 6) := by decide
theorem test_decode_setPowerState : decode [0b0010_0100, 1, 0] = .ok (.setPowerState 1) := by decide
theorem test_decode_getPowerState : decode [0b0010_0101] = .ok .getPowerState := by decide
theorem test_decode_setGlitchOutEn : decode [0b0010_0110, 1, 0, 0, 0] = .ok (.setGlitchOutEn 1 0) := by decide
theorem test_decode_getGlitchOutEn : decode [0b0010_0111, 1, 0] = .ok (.getGlitchOutEn 1) := by decide
theorem test_decode_setClockSource : decode [0b0011_0000, 4, 0] = .ok (.setClockSource 4) := by decide
theorem test_decode_getClockSource : decode [0b0011_0001] = .ok .getClockSource := by decide
theorem test_decode_setTargetClockOut : decode [0b0011_0010, 2, 0] = .ok (.setTargetClockOut 2) := by decide
theorem test_decode_getTargetClockOut : decode [0b0011_0011] = .ok .getTargetClockOut := by decide
theorem test_decode_setTrigoutFpa : decode [0b0011_0100, 1, 0] = .ok (.setTrigoutFpa 1) := by decide
theorem test_decode_getTrigoutFpa : decode [0b0011_0101] = .ok .getTrigoutFpa := by decide
theorem test_decode_setTriggerModule : decode [0b0100_0000, 3, 0] = .ok (.setTriggerModule 3) := by decide
theorem test_decode_getTriggerModule : decode [0b0100_0001] = .ok .getTriggerModule := by decide
theorem test_decode_i2cReadByte : decode [0b0101_0000, 0x0C, 0, 0x50, 0] = .ok (.i2cReadByte 0x0C 0x50) := by decide
theorem test_decode_i2cWriteByte :
    decode [0b0101_0001, 0x0C, 0, 0x5A, 0x69, 0] = .ok (.i2cWriteByte 0x0C 0x5A 0x69) := by decide
theorem test_decode_pllIsPresent : decode [0b0101_0010] = .ok .pllIsPresent := by decide
theorem test_decode_pllSetupPll :
    decode [0b0110_0000, 0xF4, 1, 25, 0, 0, 0, 1, 0, 1, 0] = .ok (.pllSetupPll 500 25 0 1 1) := by decide
theorem test_decode_pllSetupDivider : decode [0b0110_0001, 64, 0, 1, 0, 5, 0] = .ok (.pllSetupDivider 64 1 5) := by decide
theorem test_decode_pllSetupOutput :
    decode [0b0110_0010, 2, 0, 0, 0, 1, 0, 4, 0, 3, 0] = .ok (.pllSetupOutput 2 0 1 4 3) := by decide
theorem test_decode_pllSetupClockSource :
    decode [0b0110_0011, 0, 0, 1, 0, 0, 0] = .ok (.pllSetupClockSource 0 1 0) := by decide
theorem test_decode_init : decode [0b0111_0000, 2, 0] = .ok (.init 2) := by decide

/-- R88: `sla` defaults to 0x69, `num` to 1. -/
theorem test_decode_defaults :
    decode [0x50, 0x0C, 0] = .ok (.i2cReadByte 0x0C 0x69) ∧ decode [0x51, 0x0C, 0, 0x5A] = .ok (.i2cWriteByte 0x0C 0x5A 0x69) ∧
      decode [0x60, 0xF4, 1, 25, 0, 0, 0, 1, 0] = .ok (.pllSetupPll 500 25 0 1 1) := by decide

/-- T40-5. -/
theorem test_decode_reserved : decode [0x81, 39, 1, 0] = .error (.reserved 0x81) := by decide

/-! Operations -/

/-- T40-1, T40-3. -/
theorem test_read : got (·.report) (exec (.read 39 1) { base with trigSrc := 0x4C }) = some (.ok (.bytes [0x4C])) := by decide
theorem test_read_width : got (fun t => (t.refused, t.trace)) (exec (.read 39 2) base) = some (true, []) := by decide

/-- T40-2; R101. -/
theorem test_write : got (fun t => (t.report, t.trigMod)) (exec (.write 40 [9]) base) = some (.ok .nothing, 9) := by decide

/-- T40-6: a reserved control word. -/
theorem test_write_control_refused :
    got (fun t => (t.refused, t.ctlLatch)) (exec (.write 47 [1, 0xE9, 0x80]) base) = some (true, none) := by decide

/-- T40-8, T40-10. -/
theorem test_fieldSet : got (·.trigSrc) (exec (.fieldSet 39 0 6 2 0 3) { base with trigSrc := 0x0C }) = some 0xCC := by decide
theorem test_fieldSet_inverted : got (·.ioRoute) (exec (.fieldSet 55 5 1 1 1 0) { base with ioRoute := [0, 1, 2, 3, 4, 5, 6, 7] }) =
    some [0, 1, 2, 3, 4, 7, 6, 7] := by decide

/-- T40-16, T40-17. -/
theorem test_fieldGet : got (·.report) (exec (.fieldGet 39 0 6 2 0) { base with trigSrc := 0x8C }) = some (.ok (.field 2)) := by
  decide
theorem test_fieldGet_inverted : got (·.report) (exec (.fieldGet 55 5 1 1 1) { base with ioRoute := [0, 1, 2, 3, 4, 5, 6, 7] }) =
    some (.ok (.field 1)) := by decide

/-- T41-1, T41-4. -/
theorem test_setPin : got (·.trigSrc) (exec (.setPin 3 1) { base with trigSrc := 0x41 }) = some 0x49 := by decide
theorem test_setPin_clear : got (·.trigSrc) (exec (.setPin 0 0) { base with trigSrc := 0xFF }) = some 0xFE := by decide

/-- W5. -/
theorem test_getPin : got (·.report) (exec (.getPin 0) { base with trigSrc := 0x61 }) = some (.ok (.bool true)) := by decide

/-- W6. -/
theorem test_setCollectionMode : got (·.trigSrc) (exec (.setCollectionMode 2) { base with trigSrc := 0x49 }) = some 0x89 := by
  decide
theorem test_getCollectionMode :
    got (·.report) (exec .getCollectionMode { base with trigSrc := 0x89 }) = some (.ok (.collectionMode .nand)) := by decide

/-- W7. -/
theorem test_setIoRoute : got (·.ioRoute) (exec (.setIoRoute 3 2) { base with ioRoute := [1, 2, 0, 0, 0, 0, 0, 0] }) =
    some [1, 2, 2, 0, 0, 0, 0, 0] := by decide
theorem test_setIoRoute_illegal :
    got (fun t => (t.report, t.trace)) (exec (.setIoRoute 4 3) base) = some (.error (.invalidParameter [4, 3]), []) := by decide
theorem test_getIoRoute :
    got (·.report) (exec (.getIoRoute 3) { base with ioRoute := [1, 2, 3, 0, 0, 0, 0, 0] }) = some (.ok (.byte 3)) := by decide

/-- PROG3 step 1; W9 step 4. -/
theorem test_setGpioState_mismatch : got (fun t => (t.report, t.ioRoute)) (exec (.setGpioState 1 1)
    { base with ioRoute := [1, 2, 0, 0, 0, 0, 0, 0] }) = some (.error (.pinModeMismatch 1), [1, 2, 0, 0, 0, 0, 0, 0]) := by
  decide
theorem test_setGpioState_special : got (·.ioRoute) (exec (.setGpioState 5 2)
    { base with ioRoute := [0, 0, 0, 0, 0, 0, 0x37, 0] }) = some [0, 0, 0, 0, 0, 0, 0x33, 0] := by decide

/-- PROG3 step 8. -/
theorem test_getGpioState : got (·.report) (exec (.getGpioState 4) { base with ioRoute := [0, 0, 0, 0, 0, 0, 1, 0] }) =
    some (.ok (.gpioState .low)) := by decide

/-- R126, R127: bit 1 of byte 5 is a disable flag. -/
theorem test_setPowerState : got (·.ioRoute) (exec (.setPowerState 0) { base with ioRoute := [0, 0, 0, 0, 0, 5, 0, 0] }) =
    some [0, 0, 0, 0, 0, 7, 0, 0] := by decide
theorem test_getPowerState : got (·.report) (exec .getPowerState { base with ioRoute := [0, 0, 0, 0, 0, 5, 0, 0] }) =
    some (.ok (.bool true)) := by decide

/-- R128, R129: B is bit 1 of byte 4. -/
theorem test_setGlitchOutEn : got (·.ioRoute) (exec (.setGlitchOutEn 1 1) { base with ioRoute := [0, 0, 0, 0, 1, 0, 0, 0] }) =
    some [0, 0, 0, 0, 3, 0, 0, 0] := by decide
theorem test_getGlitchOutEn : got (·.report) (exec (.getGlitchOutEn 1) { base with ioRoute := [0, 0, 0, 0, 1, 0, 0, 0] }) =
    some (.ok (.bool false)) := by decide

/-- PROG5 steps 2, 3 and 4. -/
theorem test_setClockSource : got (·.extClk) (exec (.setClockSource 3) { lite with extClk := 0x40 }) = some 0x43 := by decide
theorem test_setClockSource_gated :
    got (fun t => (t.report, t.trace)) (exec (.setClockSource 0) lite) = some (.error (.invalidParameter [0]), []) := by decide
theorem test_getClockSource :
    got (·.report) (exec .getClockSource { lite with extClk := 0x43 }) = some (.ok (.clockSource .targetIOIn)) := by decide

/-- R142, R143: bits 6:5 of ExternalClock. -/
theorem test_setTargetClockOut : got (·.extClk) (exec (.setTargetClockOut 2) { base with extClk := 0x23 }) = some 0x43 := by
  decide
theorem test_getTargetClockOut :
    got (·.report) (exec .getTargetClockOut { base with extClk := 0x60 }) = some (.ok (.unrecognised 3)) := by decide

/-- PROG5 step 5; R144, R145. -/
theorem test_setTrigoutFpa : got (·.trigMod) (exec (.setTrigoutFpa 1) { base with trigMod := 0x01 }) = some 0x09 := by decide
theorem test_getTrigoutFpa :
    got (·.report) (exec .getTrigoutFpa { base with trigMod := 0x09 }) = some (.ok (.bool true)) := by decide

/-- W10. -/
theorem test_setTriggerModule : got (fun t => (t.trigMod, t.events)) (exec (.setTriggerModule 1) { base with trigMod := 0x08 }) =
    some (0x09, [⟨true⟩]) := by decide
theorem test_setTriggerModule_basic :
    got (fun t => (t.trigMod, t.events)) (exec (.setTriggerModule 0) { base with trigMod := 0x09 }) =
      some (0x08, [⟨false⟩]) := by decide
theorem test_getTriggerModule :
    got (·.report) (exec .getTriggerModule { base with trigMod := 0x09 }) = some (.ok (.triggerModule .sadMatch)) := by decide

/-- W1, W4. -/
theorem test_i2cReadByte :
    got (·.report) (exec (.i2cReadByte 0x0C 0x69) (chip [(0x0C, 0x5A)])) = some (.ok (.byte 0x5A)) := by decide
theorem test_i2cReadByte_nack : got (fun t => (t.report, commandCount t.trace)) (exec (.i2cReadByte 0x0C 0x50) (chip [])) =
    some (.error (.noAcknowledge 0x50 0x0C), 4) := by decide

/-- W2: the commands of a byte write, and the slave after it. -/
theorem test_i2cWriteByte : got (fun t => (t.bus, t.trace)) (exec (.i2cWriteByte 0x0C 0x5A 0x69) (chip [])) =
    some (.wellBehaved 0x69 [(0x0C, 0x5A)],
      [.write 48 [0x5A] true, .write 47 [0x00, 0x69, 0x8C] true, .wait, .write 47 [0x04, 0x69, 0x8C] true, .wait,
       .write 47 [0x00, 0x69, 0x8C] true, .wait, .read 47 3 (some [0xFE, 0xFE, 0xFE])]) := by decide

/-- W13. -/
theorem test_pllIsPresent : got (·.report) (exec .pllIsPresent (chip [(0x00, 0x81)])) = some (.ok (.bool true)) := by decide
theorem test_pllIsPresent_absent : got (·.report) (exec .pllIsPresent (chip [(0x00, 0x02)])) = some (.ok (.bool false)) := by
  decide

/-- W14. -/
theorem test_pllSetupPll : got (fun t => (t.bus, commandCount t.trace)) (exec (.pllSetupPll 500 25 0 1 1) (chip [(3, 0x30)])) =
    some (.wellBehaved 0x69 [(1, 0x19), (2, 0xF4), (3, 0x72)], 20) := by decide
theorem test_pllSetupOutput : got (·.bus) (exec (.pllSetupOutput 2 0 1 2 3) (chip [])) =
    some (.wellBehaved 0x69 [(0x15, 0x6A)]) := by decide
theorem test_pllSetupClockSource : got (·.bus) (exec (.pllSetupClockSource 0 1 0) (chip [(8, 0x80), (9, 0x01)])) =
    some (.wellBehaved 0x69 [(8, 0x40)]) := by decide

/-- W11. -/
theorem test_pllSetupDivider : got (fun t => (t.bus, commandCount t.trace)) (exec (.pllSetupDivider 64 1 0) (chip [])) =
    some (.wellBehaved 0x69 [(0x0A, 0x01), (0x0D, 0x40)], 15) := by decide
theorem test_pllSetupDivider_skips :
    got (fun t => (t.bus, commandCount t.trace)) (exec (.pllSetupDivider 64 1 0) (chip [(0x0A, 0x01)])) =
      some (.wellBehaved 0x69 [(0x0A, 0x01), (0x0D, 0x40)], 10) := by decide

/-- PROG5 step 1; R146, R233: RevisionA is REF's quirk variant. -/
theorem test_init : got (fun t => (t.report, t.phase, t.caps)) (exec (.init 1) fresh) =
    some (.ok .nothing, .idle, some ⟨false, true, false⟩) := by decide
theorem test_init_quirk : got (fun t => (t.variant, t.extClk)) (exec (.init 0) { fresh with extClk := 0x40 }) =
    some (some .revisionA, 0x43) := by decide

/-- R210's table of codes, each met by an operation: OK, UnsupportedVariant, InvalidParameter, InvalidChannel, PinModeMismatch,
NoAcknowledge, TransportFailure; a refused request has none (R213). -/
theorem test_codes :
    got (·.report.code) (exec .getTriggerModule base) = some (some 0) ∧
      got (·.report.code) (exec (.init 3) fresh) = some (some 1) ∧
      got (·.report.code) (exec (.setClockSource 0) lite) = some (some 2) ∧
      got (·.report.code) (exec (.setPin 6 1) base) = some (some 3) ∧
      got (·.report.code) (exec (.setGpioState 1 1) base) = some (some 4) ∧
      got (·.report.code) (exec (.i2cReadByte 0x0C 0x50) (chip [])) = some (some 5) ∧
      got (·.report.code) (exec .getTriggerModule (failAt 0 base)) = some (some 6) ∧
      got (·.report.code) (exec (.setPin 3 2) base) = some none := by decide

/-! Witnesses: for each statement with hypotheses, states and operands that meet them, at the boundary values of each clause -/

theorem base_linkUp {n : Nat} (h : n ≤ 24) : base.linkUp n := fun k hk =>
  (by decide : ∀ k, k < 24 → base.linkFails k = false) k (Nat.lt_of_lt_of_le hk h)

theorem base_callerStays {n : Nat} (h : n ≤ 24) : base.callerStays n := fun k hk =>
  (by decide : ∀ k, k < 24 → base.callerStops k = false) k (Nat.lt_of_lt_of_le hk h)

theorem failAt_linkUp_3 : (failAt 3 base).linkUp 3 := fun k hk =>
  (by decide : ∀ k, k < 3 → (failAt 3 base).linkFails k = false) k hk

theorem failAt_linkUp_4 : (failAt 4 base).linkUp 4 := fun k hk =>
  (by decide : ∀ k, k < 4 → (failAt 4 base).linkFails k = false) k hk

theorem base_atRest : base.AtRest := fun _ _ h => nomatch h

theorem fresh_atRest : fresh.AtRest := fun _ _ h => nomatch h

theorem witness_DecodeOfEncode :
    (Instr.fieldSet 65535 65535 65535 65535 65535 65535).wellFormed = true ∧ (Instr.read 255 65535).wellFormed = true ∧
      (Instr.write 255 []).wellFormed = true ∧ (Instr.i2cWriteByte 65535 0xFF 65535).wellFormed = true := by decide

theorem witness_ReservedFirstBytesAreRefused :
    State.AtRest { base with requests := [[0x00]] } ∧ base.eng = .idle ∧ State.AtRest { fresh with requests := [[0x71, 1, 0]] } ∧
      [0x00, 0x71, 0x81, 0xFF].all (fun op => !([0x80, 0xC0, 0x01, 0x02, 0x10, 0x11, 0x12, 0x13, 0x20, 0x21, 0x22, 0x23, 0x24,
        0x25, 0x26, 0x27, 0x30, 0x31, 0x32, 0x33, 0x34, 0x35, 0x40, 0x41, 0x50, 0x51, 0x52, 0x60, 0x61, 0x62, 0x63,
        0x70] : List Nat).contains op) = true :=
  ⟨fun _ _ h => (nomatch h), rfl, fun _ _ h => (nomatch h), by decide⟩

/-- A transaction in progress. -/
def readTxn : Txn := ⟨.read, 0x69, 0x0C, 0x00⟩

/-- A write transaction in progress. -/
def writeTxn : Txn := ⟨.write, 0x69, 0x0C, 0x5A⟩

theorem witness_StepRunsDecodedRequest :
    State.AtRest { base with requests := [[0x41]] } ∧ decode [0x41] = .ok .getTriggerModule ∧ (∀ txn, base.eng ≠ .busy txn) ∧
      State.AtRest { base with requests := [[0x41]], eng := .busy readTxn } :=
  ⟨fun _ _ h => (nomatch h), by decide, fun _ h => (nomatch h), fun _ _ h => (nomatch h)⟩

theorem witness_StepRunsFetchedWord :
    base.AtRest ∧ base.eng = .idle ∧ decodeTableWord 8 0x41 = some .getTriggerModule ∧
      decodeTableWord 8 0x10 = some (.setPin 0 0) ∧ decodeTableWord 40 0x5A000C10 = some (.setPin 12 90) :=
  ⟨base_atRest, rfl, by decide, by decide, by decide⟩

theorem witness_RunningBlocksRequests :
    State.phase { base with phase := .running (.setPin 3 1) 0 } = .running (.setPin 3 1) 0 ∧
      got (·.requests) (step { base with phase := .running (.setPin 3 1) 0, requests := [[0x41]] }) = some [[0x41]] := by decide

theorem witness_EngineCompletes :
    State.AtRest { chip [] with eng := .busy writeTxn } ∧ (chip []).requests = [] ∧ writeTxn.rw = .write ∧
      State.AtRest { chip [] with eng := .busy readTxn } ∧ readTxn.rw = .read :=
  ⟨fun _ _ h => (nomatch h), rfl, rfl, fun _ _ h => (nomatch h), rfl⟩

theorem witness_UnconstructedUntilInit :
    fresh.phase = .unconstructed ∧ (∀ v, Instr.getTriggerModule ≠ .init v) ∧ (∀ a n, Instr.getTriggerModule ≠ .read a n) ∧
      (∀ a v, Instr.getTriggerModule ≠ .write a v) ∧
      got (fun t => (t.phase, t.report)) (exec (.init 2) fresh) = some (.idle, .ok .nothing) ∧
      got (fun t => (t.phase, t.report)) (exec (.init 3) fresh) =
        some (.unconstructed, .error (.unsupportedVariant 3)) :=
  ⟨rfl, fun _ h => (nomatch h), fun _ _ h => (nomatch h), fun _ _ h => (nomatch h), by decide, by decide⟩

theorem witness_InitConstructs :
    base.phase = .idle ∧ fresh.phase = .unconstructed ∧ 2 < 3 ∧
      HardwareVariant.ofCode 2 = some .rev1200 ∧ HardwareVariant.rev1200 ≠ fresh.cfg.params.quirkVariant ∧
      HardwareVariant.ofCode 0 = some .revisionA ∧ HardwareVariant.revisionA = fresh.cfg.params.quirkVariant ∧ fresh.linkUp 2 ∧
      (failAt 0 fresh).linkFails 0 = true ∧ (failAt 1 fresh).linkFails 0 = false ∧ (failAt 1 fresh).linkFails 1 = true ∧
      (failAt 1 fresh).phase = .unconstructed :=
  ⟨rfl, rfl, by decide, rfl, by decide, rfl, rfl, base_linkUp (by decide), by decide, by decide, by decide, rfl⟩

theorem witness_LiteRejectsFrontPanel :
    lite.phase = .idle ∧ lite.variant = some .lite ∧ lite.caps = some (lite.cfg.params.capsOf .lite) := by decide

/-- A receive byte and the NACK flag are defined. -/
def received : State := { base with nack := some true, rxd := some 7 }

/-- The engine is busy. -/
def busy : State := { base with eng := .busy readTxn }

theorem inTable_iff {p : Params} {a n : Nat} : InCommandTable p a n ↔ admitted p a n = true := (admitted_iff p a n).symm

theorem inTable {p : Params} {a n : Nat} (h : admitted p a n = true) : InCommandTable p a n := inTable_iff.mpr h

theorem witness_ReadReturnsTheRegister :
    base.phase = .idle ∧ base.linkFails 0 = false ∧ InCommandTable base.cfg.params 38 1 ∧ base.configRegister 38 = some [0] ∧
      InCommandTable base.cfg.params 55 8 ∧ base.configRegister 55 = some [0, 0, 0, 0, 0, 0, 0, 0] ∧
      received.nack = some true ∧ received.rxd = some 7 ∧
      base.eng = .idle ∧ (failAt 0 base).phase = .idle ∧ (failAt 0 base).linkFails 0 = true ∧
      ¬InCommandTable base.cfg.params 39 2 ∧ ¬InCommandTable base.cfg.params 33 1 ∧ ¬InCommandTable base.cfg.params 55 7 :=
  ⟨rfl, by decide, inTable (by decide), rfl, inTable (by decide), rfl, rfl, rfl, rfl, rfl, by decide,
    fun h => absurd (inTable_iff.mp h) (by decide), fun h => absurd (inTable_iff.mp h) (by decide),
    fun h => absurd (inTable_iff.mp h) (by decide)⟩

theorem witness_WriteStoresItsPayload :
    base.phase = .idle ∧ base.linkFails 0 = false ∧ InCommandTable base.cfg.params 40 [(9 : Byte)].length ∧
      (base.configRegister 40).isSome = true ∧ InCommandTable base.cfg.params 55 (List.replicate 8 (1 : Byte)).length ∧
      (base.configRegister 55).isSome = true ∧ base.eng = .idle ∧ busy.eng ≠ .idle ∧
      ¬InCommandTable base.cfg.params 40 ([] : List Byte).length ∧ ¬InCommandTable base.cfg.params 41 [(9 : Byte)].length := by
  unfold InCommandTable
  decide

/-- The control latch with GO as given, the engine as given. -/
def latched (ctl : Byte) (e : Engine) : State := { base with ctlLatch := some ⟨ctl, 0xE9, 0x80⟩, eng := e }

theorem witness_ControlWriteStartsTransactions :
    base.phase = .idle ∧ base.linkFails 0 = false ∧ (0x80 : Byte).getLsbD 7 = true ∧ base.eng = .idle ∧ base.ctlLatch = none ∧
      (latched 0x00 .idle).ctlLatch = some ⟨0x00, 0xE9, 0x80⟩ ∧ (0x00 : Byte).getLsbD 2 = false ∧
      (latched 0x04 .idle).ctlLatch = some ⟨0x04, 0xE9, 0x80⟩ ∧ (0x04 : Byte).getLsbD 2 = true ∧
      (latched 0x04 (.busy readTxn)).eng ≠ .idle ∧ (latched 0x04 (.busy readTxn)).linkFails 0 = false := by decide

theorem witness_ReservedControlWordsAreRefused :
    base.phase = .idle ∧ ((0x01 : Byte) ≠ 0x00 ∧ (0x01 : Byte) ≠ 0x04) ∧ ((0x05 : Byte) ≠ 0x00 ∧ (0x05 : Byte) ≠ 0x04) ∧
      (0x7F : Byte).getLsbD 7 = false := by decide

theorem witness_FailedCommandsGarbleOnlyTheirRegister :
    (failAt 0 base).phase = .idle ∧ (failAt 0 base).linkFails 0 = true ∧ InCommandTable (failAt 0 base).cfg.params 47 3 ∧
      InCommandTable (failAt 0 base).cfg.params 39 [(9 : Byte)].length ∧ ((failAt 0 base).configRegister 39).isSome = true ∧
      InCommandTable (failAt 0 base).cfg.params 55 (List.replicate 8 (9 : Byte)).length ∧
      ((failAt 0 base).configRegister 55).isSome = true ∧ InCommandTable (failAt 0 base).cfg.params 48 [(9 : Byte)].length ∧
      InCommandTable (failAt 0 base).cfg.params 47 [(0x04 : Byte), 0xE9, 0x80].length ∧ (0x80 : Byte).getLsbD 7 = true ∧
      (∀ txn, (failAt 0 base).eng ≠ .busy txn) ∧ (failAt 0 busy).phase = .idle ∧ (failAt 0 busy).linkFails 0 = true ∧
      (failAt 0 busy).eng = .busy readTxn :=
  ⟨rfl, by decide, inTable (by decide), inTable (by decide), rfl, inTable (by decide), rfl, inTable (by decide),
    inTable (by decide), by decide, fun _ h => (nomatch h), rfl, by decide, rfl⟩

theorem witness_MaskingLaws :
    0 + 8 ≤ 8 ∧ (0xFF : Byte).toNat < 2 ^ 8 ∧ 7 + 1 ≤ 8 ∧ (1 : Byte).toNat < 2 ^ 1 ∧ 3 < 8 ∧ (3 < 4 ∨ 4 + 2 ≤ 3) ∧ 8 + 0 ≤ 8 := by
  decide

theorem witness_FieldSetReplacesTheField :
    base.phase = .idle ∧ base.ioRoute.length = base.cfg.params.ioRouteLen ∧ base.configRegister 55 = some base.ioRoute ∧
      7 < base.ioRoute.length ∧ 1 ≠ 0 ∧ 7 + 1 ≤ 8 ∧ 1 < 2 ^ 1 ∧ 2 ^ 1 ≤ 2 ∧ base.linkUp 2 ∧
      base.configRegister 38 = some [0] ∧ 8 ≠ 0 ∧ 0 + 8 ≤ 8 ∧ 255 < 2 ^ 8 ∧
      (failAt 0 base).linkFails 0 = true ∧ (failAt 1 base).linkFails 0 = false ∧ (failAt 1 base).linkFails 1 = true ∧
      base.configRegister 47 = none ∧ [(0 : Byte)].length ≤ 1 ∧ 8 < 7 + 2 :=
  ⟨rfl, rfl, rfl, by decide, by decide, by decide, by decide, by decide, base_linkUp (by decide), rfl, by decide, by decide,
    by decide, by decide, by decide, by decide, rfl, by decide, by decide⟩

theorem witness_FieldGetReturnsTheField :
    base.phase = .idle ∧ base.ioRoute.length = base.cfg.params.ioRouteLen ∧ base.configRegister 55 = some base.ioRoute ∧
      7 < base.ioRoute.length ∧ 1 ≠ 0 ∧ 7 + 1 ≤ 8 ∧ base.linkFails 0 = false ∧ (failAt 0 base).linkFails 0 = true ∧
      base.configRegister 47 = none ∧ base.configRegister 38 = some [0] ∧ [(0 : Byte)].length ≤ 1 ∧ 8 < 7 + 2 := by decide

/-- The whole byte of a one-byte register; then two disjoint fields of one. -/
theorem witness_FieldRoundTrip :
    base.phase = .idle ∧ base.ioRoute.length = base.cfg.params.ioRouteLen ∧ base.configRegister 38 = some [0] ∧ base.linkUp 3 ∧
      0 < [(0 : Byte)].length ∧ 8 ≠ 0 ∧ 0 + 8 ≤ 8 ∧ 255 < 2 ^ 8 ∧
      base.linkUp 6 ∧ 3 ≠ 0 ∧ 2 + 3 ≤ 8 ∧ 5 < 2 ^ 3 ∧ 2 ≠ 0 ∧ 5 + 2 ≤ 8 ∧ 1 < 2 ^ 2 ∧ 2 + 3 ≤ 5 :=
  ⟨rfl, rfl, rfl, base_linkUp (by decide), by decide, by decide, by decide, by decide, base_linkUp (by decide), by decide,
    by decide, by decide, by decide, by decide, by decide, by decide⟩

theorem witness_ArgumentsOutsideTheirRange :
    base.phase = .idle ∧ 1 < 2 ∧ 5 < 6 ∧ 1 ≤ 1 ∧ 2 < 3 ∧ (0 = 0 ∨ 4 < 0) ∧ (5 = 0 ∨ 4 < 5) ∧ 7 < 8 ∧ 1 ≤ 4 ∧ 4 ≤ 4 ∧ 6 < 7 ∧
      6 ≤ 6 ∧ 4 < 5 ∧ 3 < 4 ∧ fresh.phase = .unconstructed := by decide

theorem witness_SetPinWritesItsBit :
    base.phase = .idle ∧ Pin.ofCode 0 = some .frontPanelA ∧ Pin.ofCode 5 = some .targetIO4 ∧ base.linkUp 2 ∧
      (failAt 0 base).linkFails 0 = true ∧ (failAt 1 base).linkFails 0 = false ∧ (failAt 1 base).linkFails 1 = true ∧ 5 < 6 :=
  ⟨rfl, rfl, rfl, base_linkUp (by decide), by decide, by decide, by decide, by decide⟩

theorem witness_GetPinReturnsItsBit :
    base.phase = .idle ∧ Pin.ofCode 0 = some .frontPanelA ∧ Pin.ofCode 5 = some .targetIO4 ∧ base.linkFails 0 = false ∧
      (failAt 0 base).linkFails 0 = true ∧ 5 < 6 := by decide

theorem witness_SetCollectionModeWritesBits7To6 :
    base.phase = .idle ∧ CollectionMode.ofCode 0 = some .or ∧ CollectionMode.ofCode 2 = some .nand ∧ base.linkUp 2 ∧
      (failAt 0 base).linkFails 0 = true ∧ (failAt 1 base).linkFails 0 = false ∧ (failAt 1 base).linkFails 1 = true ∧ 2 < 3 :=
  ⟨rfl, rfl, rfl, base_linkUp (by decide), by decide, by decide, by decide, by decide⟩

/-- R113: under REF the code 3 is no mode's. -/
theorem witness_GetCollectionModeDecodesBits7To6 :
    base.phase = .idle ∧ base.linkFails 0 = false ∧
      (∀ j, j < 2 → (base.cfg.params.collectCode .nand).getLsbD j = (0x89 : Byte).getLsbD (6 + j)) ∧
      (∀ m, ∃ j, j < 2 ∧ (base.cfg.params.collectCode m).getLsbD j ≠ (0xC0 : Byte).getLsbD (6 + j)) ∧
      (failAt 0 base).linkFails 0 = true :=
  ⟨rfl, by decide, by decide, fun m => by cases m <;> first | exact ⟨0, by decide⟩ | exact ⟨1, by decide⟩, by decide⟩

theorem witness_PinsAndModeAreIndependent :
    base.phase = .idle ∧ base.linkUp (2 * [(3, true), (5, true), (3, false)].length + 1) ∧ Pin.ofCode 0 = some .frontPanelA ∧
      (∀ x ∈ [((3 : Nat), true), (5, true), (3, false)], x.1 < 6) ∧ base.linkUp 3 ∧ CollectionMode.ofCode 2 = some .nand :=
  ⟨rfl, base_linkUp (by decide), rfl, by decide, base_linkUp (by decide), rfl⟩

theorem witness_SetIoRouteReplacesOneByte :
    base.phase = .idle ∧ base.ioRoute.length = base.cfg.params.ioRouteLen ∧ TargetPin.ofIndex 1 = some .io1 ∧
      TargetPin.ofIndex 4 = some .io4 ∧ RouteMode.ofCode 0 = some .highZ ∧ RouteMode.ofCode 7 = some .gpioEnabled ∧
      RouteMode.highZ ∈ base.cfg.params.legalRoute .io1 ∧ RouteMode.gpioEnabled ∈ base.cfg.params.legalRoute .io4 ∧
      RouteMode.ofCode 3 = some .usiOut ∧ RouteMode.usiOut ∉ base.cfg.params.legalRoute .io4 ∧ base.linkUp 2 ∧
      (failAt 0 base).linkFails 0 = true ∧ (failAt 1 base).linkFails 0 = false ∧ (failAt 1 base).linkFails 1 = true ∧
      (0 = 0 ∨ 4 < 0) ∧ (5 = 0 ∨ 4 < 5) ∧ 7 < 8 :=
  ⟨rfl, rfl, rfl, rfl, rfl, rfl, by decide, by decide, rfl, by decide, base_linkUp (by decide), by decide, by decide, by decide,
    by decide, by decide, by decide⟩

theorem witness_GetIoRouteReturnsTheByte :
    base.phase = .idle ∧ base.ioRoute.length = base.cfg.params.ioRouteLen ∧ 1 ≤ 1 ∧ 1 ≤ 4 ∧ 4 ≤ 4 ∧ base.linkFails 0 = false ∧
      (failAt 0 base).linkFails 0 = true ∧ (0 = 0 ∨ 4 < 0) ∧ (5 = 0 ∨ 4 < 5) := by decide

theorem witness_SetGpioOfARegularPin :
    base.phase = .idle ∧ base.ioRoute.length = base.cfg.params.ioRouteLen ∧ 3 < 4 ∧ base.ioRoute[3]? = some 0 ∧
      (0x00 : Byte).getLsbD base.cfg.params.gpioEnBit = false ∧ base.linkFails 0 = false ∧
      State.ioRoute { base with ioRoute := [0x40, 0, 0, 0, 0, 0, 0, 0] } = [0x40, 0, 0, 0, 0, 0, 0, 0] ∧
      (0x40 : Byte).getLsbD base.cfg.params.gpioEnBit = true ∧ base.linkUp 2 ∧ 1 < 2 ∧ 2 < 3 ∧ 6 < 7 ∧
      (failAt 0 base).linkFails 0 = true ∧ (failAt 1 base).linkFails 0 = false ∧ (failAt 1 base).linkFails 1 = true :=
  ⟨rfl, rfl, by decide, rfl, by decide, by decide, rfl, by decide, base_linkUp (by decide), by decide, by decide, by decide,
    by decide, by decide, by decide⟩

theorem witness_SetGpioOfASpecialPin :
    base.phase = .idle ∧ base.ioRoute.length = base.cfg.params.ioRouteLen ∧ 0 < 3 ∧ 2 < 3 ∧ base.ioRoute[6]? = some 0 ∧
      base.linkUp 2 ∧ (failAt 0 base).linkFails 0 = true ∧ (failAt 1 base).linkFails 0 = false ∧
      (failAt 1 base).linkFails 1 = true :=
  ⟨rfl, rfl, by decide, by decide, rfl, base_linkUp (by decide), by decide, by decide, by decide⟩

theorem witness_GetGpioDecodesThePin :
    base.phase = .idle ∧ base.ioRoute.length = base.cfg.params.ioRouteLen ∧ 6 < 7 ∧ base.linkFails 0 = false ∧
      (failAt 0 base).linkFails 0 = true := by decide

theorem witness_SpecialPinsAreIndependent :
    base.phase = .idle ∧ base.ioRoute.length = base.cfg.params.ioRouteLen ∧ 2 < 3 ∧ GPIOState.ofCode 2 = some .disabled ∧
      base.linkUp 3 ∧ 3 < 4 ∧ TargetPin.ofIndex (3 + 1) = some .io4 ∧
      RouteMode.gpioEnabled ∈ base.cfg.params.legalRoute .io4 ∧ base.linkUp 5 :=
  ⟨rfl, rfl, by decide, rfl, base_linkUp (by decide), by decide, rfl, by decide, base_linkUp (by decide)⟩

theorem witness_PowerIsBit1OfByte5Inverted :
    base.phase = .idle ∧ base.ioRoute.length = base.cfg.params.ioRouteLen ∧ base.ioRoute[5]? = some 0 ∧ base.linkUp 2 ∧
      base.linkFails 0 = false ∧ (failAt 0 base).linkFails 0 = true ∧ (failAt 1 base).linkFails 0 = false ∧
      (failAt 1 base).linkFails 1 = true :=
  ⟨rfl, rfl, rfl, base_linkUp (by decide), by decide, by decide, by decide, by decide⟩

theorem witness_GlitchEnablesAreBitsOfByte4 :
    base.phase = .idle ∧ base.ioRoute.length = base.cfg.params.ioRouteLen ∧ base.ioRoute[4]? = some 0 ∧ 1 < 2 ∧
      base.cfg.params.glitchGated = false ∧ base.linkUp 2 ∧ gated.params.glitchGated = true ∧
      State.caps { base with cfg := gated, caps := some ⟨true, false, true⟩ } = some ⟨true, false, true⟩ ∧
      (failAt 0 base).linkFails 0 = true ∧ (failAt 1 base).linkFails 0 = false ∧ (failAt 1 base).linkFails 1 = true :=
  ⟨rfl, rfl, rfl, by decide, rfl, base_linkUp (by decide), rfl, rfl, by decide, by decide, by decide⟩

theorem witness_SetClockSourceWritesBits2To0 :
    lite.phase = .idle ∧ lite.caps = some ⟨false, true, false⟩ ∧ ClockSource.ofCode 4 = some .targetIOOut ∧
      ClockSource.ofCode 0 = some .frontPanelA ∧ lite.linkUp 2 ∧ 4 < 5 ∧ (failAt 0 lite).linkFails 0 = true ∧
      (failAt 1 lite).linkFails 0 = false ∧ (failAt 1 lite).linkFails 1 = true :=
  ⟨rfl, rfl, rfl, rfl, base_linkUp (by decide), by decide, by decide, by decide, by decide⟩

theorem witness_SetTargetClockOutWritesBits6To5 :
    base.phase = .idle ∧ base.caps = some ⟨true, true, true⟩ ∧ TargetClockOut.ofCode 0 = some .disabled ∧
      TargetClockOut.ofCode 2 = some .glitchModule ∧ base.linkUp 2 ∧ gated.params.glitchGated = true ∧
      State.caps { base with cfg := gated, caps := some ⟨true, false, true⟩ } = some ⟨true, false, true⟩ ∧ 2 < 3 ∧
      (failAt 0 base).linkFails 0 = true ∧ (failAt 1 base).linkFails 0 = false ∧ (failAt 1 base).linkFails 1 = true :=
  ⟨rfl, rfl, rfl, rfl, base_linkUp (by decide), rfl, rfl, by decide, by decide, by decide, by decide⟩

/-- R141, R143: under REF the codes 7 and 3 are no member's. -/
theorem witness_ClockGettersDecodeTheirFields :
    base.phase = .idle ∧ base.linkFails 0 = false ∧
      (∀ j, j < 3 → (base.cfg.params.clkSrcCode .targetIOIn).getLsbD j = (0x43 : Byte).getLsbD j) ∧
      (∀ j, j < 2 → (base.cfg.params.clkOutCode .glitchModule).getLsbD j = (0x43 : Byte).getLsbD (5 + j)) ∧
      (∀ m, ∃ j, j < 3 ∧ (base.cfg.params.clkSrcCode m).getLsbD j ≠ (0x67 : Byte).getLsbD j) ∧
      (∀ m, ∃ j, j < 2 ∧ (base.cfg.params.clkOutCode m).getLsbD j ≠ (0x67 : Byte).getLsbD (5 + j)) ∧
      (failAt 0 base).linkFails 0 = true :=
  ⟨rfl, by decide, by decide, by decide,
    fun m => by cases m <;> first | exact ⟨0, by decide⟩ | exact ⟨1, by decide⟩ | exact ⟨2, by decide⟩,
    fun m => by cases m <;> first | exact ⟨0, by decide⟩ | exact ⟨1, by decide⟩, by decide⟩

theorem witness_TrigoutIsBit3OfTriggerModule :
    base.phase = .idle ∧ base.caps = some ⟨true, true, true⟩ ∧ base.linkUp 2 ∧ lite.phase = .idle ∧
      lite.caps = some ⟨false, true, false⟩ ∧ (failAt 0 base).linkFails 0 = true ∧ (failAt 1 base).linkFails 0 = false ∧
      (failAt 1 base).linkFails 1 = true :=
  ⟨rfl, rfl, base_linkUp (by decide), rfl, rfl, by decide, by decide, by decide⟩

/-- The same board with a legal set of one module for Rev1200. -/
def onlyBasic : Board where
  params := { Params.ref with legalTrigRev1200 := [.basic] }

theorem witness_SetTriggerModuleWritesBits2To0 :
    base.phase = .idle ∧ base.variant = some .rev1200 ∧ TriggerModule.ofCode 3 = some .decodeIO ∧
      TriggerModule.decodeIO ∈ base.cfg.params.legalTrigMod .rev1200 ∧ base.cfg.params.edgeFirePolicy = .always ∧
      onChange.params.edgeFirePolicy = .onChange ∧ TriggerModule.decodeIO ∈ onChange.params.legalTrigMod .rev1200 ∧
      (∀ j, j < 3 → (onChange.params.trigModCode .decodeIO).getLsbD j = (0x0B : Byte).getLsbD j) ∧
      (¬∀ j, j < 3 → (onChange.params.trigModCode .decodeIO).getLsbD j = (0x00 : Byte).getLsbD j) ∧ base.linkUp 2 ∧
      (failAt 0 base).linkFails 0 = true ∧ (failAt 1 base).linkFails 0 = false ∧ (failAt 1 base).linkFails 1 = true ∧
      TriggerModule.decodeIO ∉ onlyBasic.params.legalTrigMod .rev1200 ∧ 3 < 4 :=
  ⟨rfl, rfl, rfl, by decide, rfl, rfl, by decide, by decide, by decide, base_linkUp (by decide), by decide, by decide, by decide,
    by decide, by decide⟩

/-- R156: under REF the code 7 is no module's. -/
theorem witness_GetTriggerModuleDecodesBits2To0 :
    base.phase = .idle ∧ base.linkFails 0 = false ∧
      (∀ j, j < 3 → (base.cfg.params.trigModCode .sadMatch).getLsbD j = (0x09 : Byte).getLsbD j) ∧
      (∀ m, ∃ j, j < 3 ∧ (base.cfg.params.trigModCode m).getLsbD j ≠ (0x0F : Byte).getLsbD j) ∧
      (failAt 0 base).linkFails 0 = true :=
  ⟨rfl, by decide, by decide, fun m => by cases m <;> first | exact ⟨0, by decide⟩ | exact ⟨1, by decide⟩ | exact ⟨2, by decide⟩,
    by decide⟩

theorem witness_OnlySetTriggerModuleEmits :
    got (·.events) (exec (.setTriggerModule 1) base) = some [⟨true⟩] ∧ got (·.events) (exec .getTriggerModule base) = some [] := by
  decide

theorem witness_I2cReadByteRunsTheHandshake :
    (chip [(0x7F, 0x5A)]).phase = .idle ∧ (chip [(0x7F, 0x5A)]).eng = .idle ∧ (chip [(0x7F, 0x5A)]).linkUp 5 ∧
      (chip [(0x7F, 0x5A)]).callerStays 4 ∧ ((chip [(0x7F, 0x5A)]).slaveRead 0x69 0x7F).1.ack = true ∧
      ((chip [(0x7F, 0x5A)]).slaveRead 0x50 0x7F).1.ack = false ∧
      (failAt 3 (chip [])).linkUp 3 ∧ (failAt 3 (chip [])).linkFails 3 = true ∧ (failAt 3 (chip [])).callerStays 4 ∧
      (failAt 4 (chip [])).linkUp 4 ∧ (failAt 4 (chip [])).linkFails 4 = true ∧ (failAt 4 (chip [])).callerStays 4 ∧
      ((failAt 4 (chip [])).slaveRead 0x69 0x7F).1.ack = true ∧ 127 < 128 :=
  ⟨rfl, rfl, base_linkUp (by decide), base_callerStays (by decide), by decide, by decide, failAt_linkUp_3, by decide,
    base_callerStays (by decide), failAt_linkUp_4, by decide, base_callerStays (by decide), by decide, by decide⟩

theorem witness_I2cWriteByteRunsTheHandshake :
    (chip []).phase = .idle ∧ (chip []).eng = .idle ∧ (chip []).linkUp 5 ∧ (chip []).callerStays 4 ∧
      ((chip []).slaveWrite 0x69 0x7F 0x5A).1 = true ∧ ((chip []).slaveWrite 0x50 0x7F 0x5A).1 = false ∧
      (failAt 4 (chip [])).linkUp 4 ∧ (failAt 4 (chip [])).linkFails 4 = true ∧ (failAt 4 (chip [])).callerStays 4 ∧
      (failAt 0 (chip [])).linkFails 0 = true ∧ State.linkFails { failAt 0 (chip []) with eng := .busy readTxn } 0 = true ∧
      127 < 128 :=
  ⟨rfl, rfl, base_linkUp (by decide), base_callerStays (by decide), by decide, by decide, failAt_linkUp_4, by decide,
    base_callerStays (by decide), by decide, by decide, by decide⟩

theorem witness_ProbeReportsPresence :
    base.phase = .idle ∧ State.phase { failAt 4 (chip []) with eng := .undefined } = .idle := ⟨rfl, rfl⟩

theorem witness_I2cRoundTrip :
    (chip [(0x7F, 1)]).phase = .idle ∧ (chip [(0x7F, 1)]).eng = .idle ∧
      (chip [(0x7F, 1)]).bus = .wellBehaved 0x69 [(0x7F, 1)] ∧ Memory.wf [(0x7F, 1)] = true ∧ (chip [(0x7F, 1)]).linkUp 10 ∧
      (chip [(0x7F, 1)]).callerStays 8 :=
  ⟨rfl, rfl, rfl, by decide, base_linkUp (by decide), base_callerStays (by decide)⟩

/-- The first and the last control WRITE of a byte read, and of a byte write, whose data WRITE comes first. -/
theorem witness_FailedControlWriteLeavesTheEngineUndefined :
    base.phase = .idle ∧ 2 < 3 ∧ (failAt 2 base).callerStays (2 * 2) ∧ (failAt 2 base).linkUp 2 ∧
      (failAt 2 base).linkFails 2 = true ∧ (failAt 3 base).callerStays (2 * 2) ∧ (failAt 3 base).linkUp (2 + 1) ∧
      (failAt 3 base).linkFails (2 + 1) = true ∧ (failAt 0 base).linkUp 0 ∧ (failAt 0 base).linkFails 0 = true ∧
      (failAt 1 base).linkUp (0 + 1) ∧ (failAt 1 base).linkFails (0 + 1) = true :=
  ⟨rfl, by decide, base_callerStays (by decide), fun k hk => (by decide : ∀ k, k < 2 → (failAt 2 base).linkFails k = false) k hk,
    by decide, base_callerStays (by decide), failAt_linkUp_3, by decide, fun _ hk => absurd hk (Nat.not_lt_zero _), by decide,
    fun k hk => (by decide : ∀ k, k < 1 → (failAt 1 base).linkFails k = false) k hk, by decide⟩

theorem witness_AbandonmentLeavesTheEngineUndefined :
    base.phase = .idle ∧ 3 < 4 ∧ (stopAt 3 base).callerStays 3 ∧ (stopAt 3 base).callerStops 3 = true ∧
      (stopAt 3 base).linkUp (3 / 2 + 1) ∧ (stopAt 3 base).linkUp (3 / 2 + 2) ∧ (stopAt 0 base).callerStays 0 ∧
      (stopAt 0 base).callerStops 0 = true ∧ (stopAt 0 base).linkUp (0 / 2 + 1) ∧ (stopAt 0 base).linkUp (0 / 2 + 2) :=
  ⟨rfl, by decide, fun k hk => (by decide : ∀ k, k < 3 → (stopAt 3 base).callerStops k = false) k hk, by decide,
    base_linkUp (by decide), base_linkUp (by decide), fun _ hk => absurd hk (Nat.not_lt_zero _), by decide,
    base_linkUp (by decide), base_linkUp (by decide)⟩

theorem witness_UndefinedPersists :
    State.eng { base with eng := .undefined } = .undefined ∧
      got (·.eng) (step { base with eng := .undefined, requests := [[0x50, 0x0C, 0]] }) = some .undefined := by decide

theorem witness_PllSetupPllProgramsTheChip :
    (chip [(3, 0x30)]).phase = .idle ∧ (chip [(3, 0x30)]).eng = .idle ∧
      (chip [(3, 0x30)]).bus = .wellBehaved 0x69 [(3, 0x30)] ∧ Memory.wf [(3, 0x30)] = true ∧ (chip [(3, 0x30)]).linkUp 20 ∧
      (chip [(3, 0x30)]).callerStays 16 ∧ 2047 < 2 ^ (chip [(3, 0x30)]).cfg.params.pll.nW ∧
      511 < 2 ^ (chip [(3, 0x30)]).cfg.params.pll.mW :=
  ⟨rfl, rfl, rfl, by decide, base_linkUp (by decide), base_callerStays (by decide), by decide, by decide⟩

theorem witness_PllSetupDividerProgramsTheChip :
    (chip []).phase = .idle ∧ (chip []).eng = .idle ∧ (chip []).bus = .wellBehaved 0x69 [] ∧ Memory.wf [] = true ∧
      (chip []).linkUp 15 ∧ (chip []).callerStays 12 ∧ 1 ≤ 1 ∧ 127 ≤ 127 ∧ 7 < 8 ∧ 5 < 6 :=
  ⟨rfl, rfl, rfl, rfl, base_linkUp (by decide), base_callerStays (by decide), by decide, by decide, by decide, by decide⟩

theorem witness_PllSetupOutputWritesOneByte :
    (chip []).phase = .idle ∧ (chip []).eng = .idle ∧ (chip []).bus = .wellBehaved 0x69 [] ∧ Memory.wf [] = true ∧
      (chip []).linkUp 5 ∧ (chip []).callerStays 4 ∧ 5 < 6 ∧ 3 < 4 :=
  ⟨rfl, rfl, rfl, rfl, base_linkUp (by decide), base_callerStays (by decide), by decide, by decide⟩

theorem witness_PllSetupClockSourceProgramsTheChip :
    (chip [(8, 0x80)]).phase = .idle ∧ (chip [(8, 0x80)]).eng = .idle ∧
      (chip [(8, 0x80)]).bus = .wellBehaved 0x69 [(8, 0x80)] ∧ Memory.wf [(8, 0x80)] = true ∧ (chip [(8, 0x80)]).linkUp 20 ∧
      (chip [(8, 0x80)]).callerStays 16 ∧ (false = true ∨ true ≠ false) ∧ (true = true ∨ false ≠ false) :=
  ⟨rfl, rfl, rfl, by decide, base_linkUp (by decide), base_callerStays (by decide), by decide, by decide⟩

theorem witness_PllSetupPllIsItsSequence :
    base.phase = .idle ∧ 2047 < 2 ^ base.cfg.params.pll.nW ∧ 511 < 2 ^ base.cfg.params.pll.mW ∧ 0 ≠ 1 ∧ 2 ≠ 1 ∧
      2 ^ base.cfg.params.pll.nW ≤ 2048 ∧ 2 ^ base.cfg.params.pll.mW ≤ 512 := by decide

theorem witness_PllSetupDividerIsItsSequence :
    base.phase = .idle ∧ 7 < 8 ∧ 7 ≤ 7 ∧ 5 < 6 ∧ 5 ≤ 5 ∧ (0 = 0 ∨ 127 < 0) ∧ (128 = 0 ∨ 127 < 128) ∧ 1 ≤ 1 ∧ 127 ≤ 127 := by
  decide

theorem witness_PllSetupOutputIsItsSequence :
    base.phase = .idle ∧ 5 < 6 ∧ 3 < 4 ∧ 5 ≤ 5 ∧ 3 ≤ 3 := by decide

theorem witness_PllSetupClockSourceIsItsSequence :
    base.phase = .idle ∧ (false = true ∨ true ≠ false) ∧ (true = true ∨ true ≠ true) ∧
      base.cfg.params.pll.cs1Cond.look false true false = true ∧ base.cfg.params.pll.cs1Cond.look true false false = false := by
  decide

/-- The invariant holds of a constructed block, and it has a step. -/
theorem witness_StepKeepsTheInvariant :
    (chip [(1, 1)]).Inv ∧ got (·.report) (step { chip [(1, 1)] with requests := [[0x50, 1, 0]] }) = some (.ok (.byte 1)) :=
  ⟨⟨rfl, fun a f h => by cases h; decide, .inr ⟨.rev1200, rfl, rfl⟩⟩, by decide⟩

theorem witness_EveryStepEndsAtRest : base.AtRest ∧ fresh.AtRest := ⟨base_atRest, fresh_atRest⟩

theorem witness_StepKeepsMarkProfileAndTrace :
    got (fun t => (t.refused, t.trace)) (step { base with refused := true, requests := [[0x11, 0, 0]] }) =
      some (true, [.read 39 1 (some [0x00])]) ∧ base.phase ≠ .unconstructed := by decide

end Sys2Proof.Tests
end

section
/-! The masking laws of spec/00_scope.md R11, each from the bitwise reading of `setbits` and `getbits`. -/

namespace Sys2Proof.Machine

/-- A value that fits in `w` bits has no bit from `w` on. -/
theorem getLsbD_eq_false_of_fits {f : Byte} {w j : Nat} (hf : f.toNat < 2 ^ w) (hj : w ≤ j) : f.getLsbD j = false :=
  Nat.testBit_lt_two_pow (hf.trans_le (Nat.pow_le_pow_right Nat.two_pos hj))

/-- A field write leaves the bits outside the field. -/
theorem setbits_getLsbD_outside (v f : Byte) {lo w j : Nat} (hj : j < 8) (hout : j < lo ∨ lo + w ≤ j) :
    (setbits v lo w f).getLsbD j = v.getLsbD j := by
  rw [setbits_getLsbD v f lo w j hj, if_neg (by omega)]

/-- A field write puts bit `j` of the value at bit `j` of the field. -/
theorem setbits_getLsbD_inside (v f : Byte) {lo w j : Nat} (hw : lo + w ≤ 8) (hj : j < w) :
    (setbits v lo w f).getLsbD (lo + j) = f.getLsbD j := by
  rw [setbits_getLsbD v f lo w (lo + j) (by omega), if_pos (by omega), Nat.add_sub_cancel_left]

/-- Reading a field back gives the value written, if it fits: within the field by the write, above it both are 0. -/
theorem getbits_setbits (v : Byte) {f : Byte} {lo w : Nat} (hw : lo + w ≤ 8) (hf : f.toNat < 2 ^ w) :
    getbits (setbits v lo w f) lo w = f := by
  refine byte_ext fun j hj => ?_
  rw [getbits_getLsbD _ lo w j hj]
  by_cases hjw : j < w
  · simp [hjw, setbits_getLsbD_inside v f hw hjw]
  · simp [hjw, getLsbD_eq_false_of_fits hf (Nat.le_of_not_lt hjw)]

/-- Writing back the field just read changes nothing, wherever the field lies. -/
theorem setbits_getbits (v : Byte) (lo w : Nat) : setbits v lo w (getbits v lo w) = v := by
  refine byte_ext fun j hj => ?_
  by_cases hin : lo ≤ j ∧ j < lo + w
  · have hoff : j - lo < w := by omega
    rw [setbits_getLsbD _ _ lo w j hj, if_pos hin, getbits_getLsbD _ lo w _ (by omega), Nat.add_sub_cancel' hin.1]
    simp [hoff]
  · exact setbits_getLsbD_outside v _ hj (by omega)

/-- Settles O17, from the bitwise reading of the two primitives. -/
theorem maskingLaws : Obligations.MaskingLaws := by
  intro v f lo w hw
  exact ⟨getbits_setbits v hw, fun _ hj hout => setbits_getLsbD_outside v f hj hout, setbits_getbits v lo w,
    fun _ hj => setbits_getLsbD_inside v f hw hj⟩

end Sys2Proof.Machine
end

section
/-! Construction (spec/10_state.md R25, spec/70_reset_and_hazards.md R233): what an operation in progress can leave the phase,
the shape of INIT's body, and the two phases INIT can end in. -/

namespace Sys2Proof.Machine

/-! Requests other than INIT -/

/-- Every operation but INIT is a request that runs its body. -/
theorem exec_eq_request {i : Instr} (hi : ∀ c, i ≠ .init c) (s : State) : exec i s = request i (bodyOf i) s := by
  cases i with
  | init c => exact absurd rfl (hi c)
  | _ => rfl

/-- Before construction every operation but INIT only sets the refusal mark (R25). -/
theorem exec_unconstructed {i : Instr} {s : State} (hi : ∀ c, i ≠ .init c) (hs : s.phase = .unconstructed) :
    exec i s = .next (s.refuse .unconstructed) :=
  (exec_eq_request hi s).trans (request_unconstructed hs)

theorem refuse_agrees_declined (s : State) (r : RefusalReason) : (s.refuse r).agrees s.declined := rfl

/-! Where a primitive leaves the sequencer -/

/-- Operation op is still in progress, or has ended without a result. -/
def State.unreturned (op : Instr) (t : State) : Prop := (∃ k, t.phase = .running op k) ∨ t.phase = restPhase op false

theorem doRead_unreturned (s : State) (op : Instr) (pc a n : Nat) : (s.doRead op pc a n).unreturned op := by
  unfold State.doRead
  split
  · split
    · exact .inl ⟨_, rfl⟩
    · exact .inr rfl
  · exact .inr rfl

theorem doWrite_unreturned (s : State) (op : Instr) (pc a : Nat) (v : List Byte) :
    (s.doWrite op pc a v).unreturned op := by
  unfold State.doWrite
  split
  · split
    · split
      · exact .inl ⟨_, rfl⟩
      · exact .inr rfl
    · exact .inr rfl
  · exact .inr rfl

theorem doControl_unreturned (s : State) (op : Instr) (pc : Nat) (w : ControlWord) :
    (s.doControl op pc w).unreturned op := by
  unfold State.doControl
  split
  · exact .inl ⟨_, rfl⟩
  · exact .inr rfl

theorem doStatus_unreturned (s : State) (op : Instr) (pc : Nat) (sla reg : Reg7) :
    (s.doStatus op pc sla reg).unreturned op := by
  unfold State.doStatus
  split
  · split
    · exact .inr rfl
    · exact .inl ⟨_, rfl⟩
  · exact .inr rfl

theorem unlessAbandoned_unreturned (s : State) {op : Instr} (inside : Bool) {k : State → State}
    (hk : ∀ t, (k t).unreturned op) : (s.unlessAbandoned op inside k).unreturned op := by
  unfold State.unlessAbandoned
  split
  · simp only
    split
    · exact .inr rfl
    · exact hk _
  · exact hk s

/-- An operation ends with a result only by `return` (R27). -/
theorem perform_unreturned_or_returned {op : Instr} {pc : Nat} {a : Act} {s t : State} (h : perform op pc a s = .next t) :
    t.unreturned op ∨ ∃ r, a = .ret r ∧ t = s.returned op r := by
  cases a with
  | read addr len => cases h; exact .inl (doRead_unreturned s op pc addr len)
  | write addr v => cases h; exact .inl (doWrite_unreturned s op pc addr v)
  | control inside w => cases h; exact .inl (unlessAbandoned_unreturned s inside fun t => doControl_unreturned t op pc w)
  | wait inside => cases h; exact .inl (unlessAbandoned_unreturned s inside fun _ => .inl ⟨_, rfl⟩)
  | status sla reg => cases h; exact .inl (doStatus_unreturned s op pc sla reg)
  | emit lock => cases h; exact .inl (.inl ⟨_, rfl⟩)
  | jump k => cases h; exact .inl (.inl ⟨k, rfl⟩)
  | ret r => cases h; exact .inr ⟨r, rfl, rfl⟩
  | raise e => cases h; exact .inl (.inr rfl)
  | refuse r => cases h; exact .inl (.inr rfl)
  | stale => cases h

/-! The body of INIT -/

/-- What SET_CLOCK_SOURCE does at each step (R140): a check that fails raises; else a READ, a WRITE of what was read, the end. -/
theorem setClockSourceBody_cases (source : Nat) (s : State) (pc : Nat) :
    (∃ e, setClockSourceBody source s pc = .raise e) ∨
    (pc = 0 ∧ setClockSourceBody source s pc = .read 38 1) ∨
    (pc = 1 ∧ s.buf.isSome = true ∧ ∃ v, setClockSourceBody source s pc = .write 38 v) ∨
    (pc = 1 ∧ s.buf = none ∧ setClockSourceBody source s pc = .stale) ∨
    (2 ≤ pc ∧ setClockSourceBody source s pc = .ret .nothing) := by
  cases hsrc : ClockSource.ofCode source with
  | none => exact .inl ⟨.invalidChannel source, by simp only [setClockSourceBody, hsrc, selector]⟩
  | some src =>
    by_cases hok : clockSourceAllowed s src = true
    · simp only [setClockSourceBody, hsrc, selector, allowed, hok, if_true]
      match pc with
      | 0 => exact .inr (.inl ⟨rfl, rfl⟩)
      | 1 =>
        cases hb : s.buf with
        | some bs => exact .inr (.inr (.inl ⟨rfl, rfl, by simp [withBuf, hb]⟩))
        | none => exact .inr (.inr (.inr (.inl ⟨rfl, rfl, by simp [withBuf, hb]⟩)))
      | n + 2 => exact .inr (.inr (.inr (.inr ⟨Nat.le_add_left 2 n, rfl⟩)))
    · exact .inl ⟨.invalidParameter [source], by simp [setClockSourceBody, hsrc, selector, allowed, hok]⟩

/-- INIT's body is that of SET_CLOCK_SOURCE TargetIOIn for the quirk variant, and for any other ends at once (R233). -/
theorem initBody_cases (v : HardwareVariant) (s : State) (pc : Nat) :
    initBody v s pc = setClockSourceBody targetIOInCode s pc ∨ initBody v s pc = .ret .nothing := by
  unfold initBody
  split
  · exact .inl rfl
  · exact .inr rfl

/-- SET_CLOCK_SOURCE has ended by its third step, and uses `buf` at the second alone. -/
theorem setClockSourceBody_bounded (source : Nat) : Bounded (setClockSourceBody source) (· == 1) 2 where
  fresh s pc hbuf := by
    obtain ⟨e, h⟩ | ⟨_, h⟩ | ⟨_, _, v, h⟩ | ⟨rfl, hnone, _⟩ | ⟨_, h⟩ := setClockSourceBody_cases source s pc
    case inr.inr.inr.inl => simp [hnone] at hbuf
    all_goals simp [h]
  ends s pc hpc := by
    obtain ⟨e, h⟩ | ⟨h0, _⟩ | ⟨h1, _⟩ | ⟨h1, _⟩ | ⟨_, h⟩ := setClockSourceBody_cases source s pc
    · exact .inl (by rw [h]; rfl)
    · omega
    · omega
    · omega
    · exact .inl (by rw [h]; rfl)
  forward s pc := by
    obtain ⟨e, h⟩ | ⟨_, h⟩ | ⟨_, _, v, h⟩ | ⟨_, _, h⟩ | ⟨_, h⟩ := setClockSourceBody_cases source s pc
    all_goals simp [h, Act.target]
  read s pc hneeds := by
    obtain ⟨e, h⟩ | ⟨_, h⟩ | ⟨h1, _⟩ | ⟨h1, _⟩ | ⟨_, h⟩ := setClockSourceBody_cases source s pc
    · exact .inr (.inr (by rw [h]; rfl))
    · exact .inr (.inl (by rw [h]; rfl))
    · exact .inl (by simp [h1])
    · exact .inl (by simp [h1])
    · exact .inr (.inr (by rw [h]; rfl))

/-- INIT runs to its end. -/
theorem initBody_bounded (v : HardwareVariant) : Bounded (initBody v) (· == 1) 2 where
  fresh s pc hbuf := by
    obtain h | h := initBody_cases v s pc <;> rw [h]
    · exact (setClockSourceBody_bounded _).fresh s pc hbuf
    · exact nofun
  ends s pc hpc := by
    obtain h | h := initBody_cases v s pc <;> rw [h]
    · exact (setClockSourceBody_bounded _).ends s pc hpc
    · exact .inl rfl
  forward s pc := by
    obtain h | h := initBody_cases v s pc <;> rw [h]
    · exact (setClockSourceBody_bounded _).forward s pc
    · exact Nat.lt_succ_self pc
  read s pc := by
    obtain h | h := initBody_cases v s pc <;> rw [h]
    · exact (setClockSourceBody_bounded _).read s pc
    · exact fun _ => .inr (.inr rfl)

/-- INIT returns no value. -/
theorem eq_nothing_of_initBody_ret {v : HardwareVariant} {s : State} {pc : Nat} {r : Result}
    (hr : initBody v s pc = .ret r) : r = .nothing := by
  obtain h | h := initBody_cases v s pc <;> rw [h] at hr
  · obtain ⟨e, h'⟩ | ⟨_, h'⟩ | ⟨_, _, w, h'⟩ | ⟨_, _, h'⟩ | ⟨_, h'⟩ := setClockSourceBody_cases targetIOInCode s pc
    all_goals rw [h'] at hr; cases hr
    rfl
  · cases hr; rfl

/-! INIT -/

/-- INIT is in progress, or has ended: Unconstructed, or Idle with nothing to report. -/
def State.initPhases (c : Nat) (t : State) : Prop :=
  (∃ k, t.phase = .running (.init c) k) ∨ t.phase = .unconstructed ∨ (t.phase = .idle ∧ t.report = .ok .nothing)

/-- Each primitive of INIT leaves it in progress, fails it, or ends it with nothing. -/
theorem perform_initPhases {c : Nat} {v : HardwareVariant} {s t : State} {op : Instr} {pc : Nat} (hs : s.initPhases c)
    (hp : s.phase = .running op pc) (h : perform op pc (initBody v s pc) s = .next t) : t.initPhases c := by
  obtain rfl : op = .init c := by
    obtain ⟨k, hk⟩ | hk | ⟨hk, _⟩ := hs <;> rw [hp] at hk <;> cases hk
    rfl
  obtain (hk | hend) | ⟨r, hr, rfl⟩ := perform_unreturned_or_returned h
  · exact .inl hk
  · exact .inr (.inl hend)
  · obtain rfl := eq_nothing_of_initBody_ret hr
    exact .inr (.inr ⟨rfl, rfl⟩)

/-- An accepted INIT ends Unconstructed, or Idle with nothing to report. -/
theorem drive_initBody_ends {c : Nat} {v : HardwareVariant} {s t : State}
    (h : drive (initBody v) opFuel (s.accept (.init c)) = .next t) :
    t.phase = .unconstructed ∨ (t.phase = .idle ∧ t.report = .ok .nothing) := by
  obtain ⟨u, hu, hrest⟩ := (initBody_bounded v).drive opFuel (s.accept (.init c)) (.init c) 0 rfl (by simp) (by decide)
  obtain rfl : u = t := Host.Outcome.next.inj (hu.symm.trans h)
  have hkept : u.initPhases c := drive_keeps (P := State.initPhases c) perform_initPhases (.inl ⟨0, rfl⟩) h
  exact hkept.resolve_left fun ⟨k, hk⟩ => hrest _ k hk

/-- INIT before construction ends Unconstructed, or Idle with nothing to report (R233). -/
theorem exec_init_ends {c : Nat} {s t : State} (hs : s.phase = .unconstructed) (h : exec (.init c) s = .next t) :
    t.phase = .unconstructed ∨ (t.phase = .idle ∧ t.report = .ok .nothing) := by
  change execInit c s = .next t at h
  unfold execInit at h
  rw [hs] at h
  cases hv : HardwareVariant.ofCode c with
  | none =>
    rw [hv] at h
    cases h
    exact .inl rfl
  | some v =>
    rw [hv] at h
    exact drive_initBody_ends h

/-- Settles O9: any operation but INIT is refused before it runs, and INIT ends Unconstructed or with nothing to report. -/
theorem unconstructedUntilInit : Obligations.UnconstructedUntilInit := by
  intro s i hs
  refine ⟨fun hi _ _ => ⟨_, exec_unconstructed hi hs, refuse_agrees_declined s _⟩, fun t ht hne => ?_, ?_⟩
  · by_cases hi : ∀ c, i ≠ .init c
    · rw [exec_unconstructed hi hs] at ht
      cases ht
      exact absurd hs hne
    · push Not at hi
      obtain ⟨c, rfl⟩ := hi
      exact ⟨c, rfl, ((exec_init_ends hs ht).resolve_left hne).2⟩
  · rintro t c rfl ht hreport
    exact (exec_init_ends hs ht).resolve_right fun hok => hreport hok.2

end Sys2Proof.Machine
end

section
/-! The codes outside each argument enumeration (spec/30_encoding.md R89). -/

namespace Sys2Proof

theorem HardwareVariant.ofCode_eq_none : ∀ {c : Nat}, 2 < c → HardwareVariant.ofCode c = none
  | _ + 3, _ => rfl

theorem Pin.ofCode_eq_none : ∀ {c : Nat}, 5 < c → Pin.ofCode c = none
  | _ + 6, _ => rfl

theorem CollectionMode.ofCode_eq_none : ∀ {c : Nat}, 2 < c → CollectionMode.ofCode c = none
  | _ + 3, _ => rfl

theorem RouteMode.ofCode_eq_none : ∀ {c : Nat}, 7 < c → RouteMode.ofCode c = none
  | _ + 8, _ => rfl

theorem TargetPin.ofIndex_eq_none : ∀ {c : Nat}, c = 0 ∨ 4 < c → TargetPin.ofIndex c = none
  | 0, _ => rfl
  | _ + 5, _ => rfl

/-- The indices 1 to 4 are those of the numbered pins. -/
theorem TargetPin.exists_ofIndex : ∀ {c : Nat}, 1 ≤ c → c ≤ 4 → ∃ p, TargetPin.ofIndex c = some p
  | 1, _, _ => ⟨.io1, rfl⟩
  | 2, _, _ => ⟨.io2, rfl⟩
  | 3, _, _ => ⟨.io3, rfl⟩
  | 4, _, _ => ⟨.io4, rfl⟩

theorem GPIOPin.ofCode_eq_none : ∀ {c : Nat}, 6 < c → GPIOPin.ofCode c = none
  | _ + 7, _ => rfl

/-- The codes up to 6 are those of the GPIO pins. -/
theorem GPIOPin.exists_ofCode : ∀ {c : Nat}, c ≤ 6 → ∃ g, GPIOPin.ofCode c = some g
  | 0, _ => ⟨.regular .io1, rfl⟩
  | 1, _ => ⟨.regular .io2, rfl⟩
  | 2, _ => ⟨.regular .io3, rfl⟩
  | 3, _ => ⟨.regular .io4, rfl⟩
  | 4, _ => ⟨.special .nRST, rfl⟩
  | 5, _ => ⟨.special .pdid, rfl⟩
  | 6, _ => ⟨.special .pdic, rfl⟩

theorem GPIOState.ofCode_eq_none : ∀ {c : Nat}, 2 < c → GPIOState.ofCode c = none
  | _ + 3, _ => rfl

theorem Channel.ofCode_eq_none : ∀ {c : Nat}, 1 < c → Channel.ofCode c = none
  | _ + 2, _ => rfl

theorem ClockSource.ofCode_eq_none : ∀ {c : Nat}, 4 < c → ClockSource.ofCode c = none
  | _ + 5, _ => rfl

theorem TargetClockOut.ofCode_eq_none : ∀ {c : Nat}, 2 < c → TargetClockOut.ofCode c = none
  | _ + 3, _ => rfl

theorem TriggerModule.ofCode_eq_none : ∀ {c : Nat}, 3 < c → TriggerModule.ofCode c = none
  | _ + 4, _ => rfl

end Sys2Proof
end

section
/-! Arguments outside their range (spec/30_encoding.md R90): what the two checks of an argument answer, and the outcome of an
operation whose body begins with such a check. -/

namespace Sys2Proof.Machine

/-! The checks -/

theorem boolArg_of_gt : ∀ {n : Nat}, 1 < n → ∀ k, boolArg n k = .refuse .booleanArgument
  | _ + 2, _, _ => rfl

/-- A check of a boolean in range passes, so what both continuations do is done. -/
theorem boolArg_of_le {n : Nat} (hn : n ≤ 1) {k : Bool → Act} {a : Act} (hk : ∀ b, k b = a) : boolArg n k = a :=
  match n, hn with
  | 0, _ => hk false
  | 1, _ => hk true

theorem selector_of_none {α : Type} {decoded : Option α} (h : decoded = none) (code : Nat) (k : α → Act) :
    selector decoded code k = .raise (.invalidChannel code) := by
  rw [h, selector]

theorem selector_of_some {α : Type} {decoded : Option α} {a : α} (h : decoded = some a) (code : Nat) (k : α → Act) :
    selector decoded code k = k a := by
  rw [h, selector]

/-! The outcome of a body that begins with a check -/

section
variable {i : Instr} {body : State → Nat → Act} {s : State} (hs : s.phase = .idle) (hx : exec i s = request i body s)
  (hi : Instr.plain i = true)
include hs hx hi

/-- A boolean outside 0 and 1 in the first check refuses the request. -/
theorem isRefused_of_boolArg {n : Nat} (hn : 1 < n) {k : Bool → Act} (hb : body (s.accept i) 0 = boolArg n k) :
    IsRefused i s :=
  isRefused_of hx hs hi (hb.trans (boolArg_of_gt hn k))

/-- The same where a check of a boolean in range comes before it. -/
theorem isRefused_of_boolArg_boolArg {m n : Nat} (hm : m ≤ 1) (hn : 1 < n) {k : Bool → Bool → Act}
    (hb : body (s.accept i) 0 = boolArg m fun b => boolArg n (k b)) : IsRefused i s :=
  isRefused_of hx hs hi (hb.trans (boolArg_of_le hm fun b => boolArg_of_gt hn (k b)))

/-- A code outside its enumeration in the first check raises InvalidChannel. -/
theorem raisesAtOnce_of_selector {α : Type} {decoded : Option α} (hd : decoded = none) {code : Nat} {k : α → Act}
    (hb : body (s.accept i) 0 = selector decoded code k) : RaisesAtOnce i s (.invalidChannel code) :=
  raisesAtOnce_of hx hs hi (hb.trans (selector_of_none hd code k))

/-- The same where a check of a boolean in range comes before it. -/
theorem raisesAtOnce_of_boolArg_selector {n : Nat} (hn : n ≤ 1) {α : Type} {decoded : Option α} (hd : decoded = none)
    {code : Nat} {k : Bool → α → Act} (hb : body (s.accept i) 0 = boolArg n fun b => selector decoded code (k b)) :
    RaisesAtOnce i s (.invalidChannel code) :=
  raisesAtOnce_of hx hs hi (hb.trans (boolArg_of_le hn fun b => selector_of_none hd code (k b)))

/-- The same where a check that decodes a member of another enumeration comes before it. -/
theorem raisesAtOnce_of_selector_selector {α β : Type} {first : Option β} {m : β} (hf : first = some m) {decoded : Option α}
    (hd : decoded = none) {c code : Nat} {k : β → α → Act}
    (hb : body (s.accept i) 0 = selector first c fun x => selector decoded code (k x)) :
    RaisesAtOnce i s (.invalidChannel code) :=
  raisesAtOnce_of hx hs hi (hb.trans ((selector_of_some hf c _).trans (selector_of_none hd code (k m))))

end

/-! INIT -/

/-- INIT with an unknown variant only reports UnsupportedVariant (R233). -/
theorem exec_init_unsupported {s : State} (hs : s.phase = .unconstructed) {c : Nat} (hc : 2 < c) :
    ∃ t, exec (.init c) s = .next t ∧ t.agrees { s with report := .error (.unsupportedVariant c) } := by
  refine ⟨s.raised (.init c) (.unsupportedVariant c), ?_, ?_⟩
  · change execInit c s = _
    simp only [execInit, hs, HardwareVariant.ofCode_eq_none hc]
  · simp [State.agrees, State.specPart, State.raised, restPhase, reportOf, hs]

/-! The obligation -/

/-- Settles O21: the body of each operation begins with the checks of its arguments, booleans first. -/
theorem argumentsOutsideTheirRange : Obligations.ArgumentsOutsideTheirRange := by
  intro s x
  refine ⟨fun hs hx => ⟨?fieldSet, ?fieldGet, ?setPin, ?powerState, ?glitchOut, ?trigout, ?bypass, ?highspeed, ?invert, ?enabled,
      ?differential, ?useIN0, ?useIN1⟩,
    fun hs => ⟨fun hx => ⟨?pinSet, ?pinGet⟩, fun hx => ?collection, fun hx => ⟨?routeSet, ?routeGet⟩, fun hx => ?routeMode,
      fun hx => ⟨?gpioSet, ?gpioGet⟩, fun hx => ?gpioState, fun hx => ⟨?channelSet, ?channelGet⟩, fun hx => ?clockSource,
      fun hx => ?targetClockOut, fun hx => ?trigModule⟩,
    fun hs hx => exec_init_unsupported hs hx⟩
  case fieldSet => exact fun _ _ _ _ _ => isRefused_of_boolArg hs rfl rfl hx rfl
  case fieldGet => exact fun _ _ _ _ => isRefused_of_boolArg hs rfl rfl hx rfl
  case setPin => exact fun _ => isRefused_of_boolArg hs rfl rfl hx rfl
  case powerState => exact isRefused_of_boolArg hs rfl rfl hx rfl
  case glitchOut => exact fun _ => isRefused_of_boolArg hs rfl rfl hx rfl
  case trigout => exact isRefused_of_boolArg hs rfl rfl hx rfl
  case bypass => exact fun _ _ _ _ => isRefused_of_boolArg hs rfl rfl hx rfl
  case highspeed => exact fun _ _ _ _ hb => isRefused_of_boolArg_boolArg hs rfl rfl hb hx rfl
  case invert => exact fun _ _ _ _ => isRefused_of_boolArg hs rfl rfl hx rfl
  case enabled => exact fun _ _ _ _ hi => isRefused_of_boolArg_boolArg hs rfl rfl hi hx rfl
  case differential => exact fun _ _ => isRefused_of_boolArg hs rfl rfl hx rfl
  case useIN0 => exact fun _ _ ha => isRefused_of_boolArg_boolArg hs rfl rfl ha hx rfl
  case useIN1 =>
    exact fun _ _ ha hb =>
      isRefused_of rfl hs rfl (boolArg_of_le ha fun _ => boolArg_of_le hb fun _ => boolArg_of_gt hx _)
  case pinSet => exact fun _ he => raisesAtOnce_of_boolArg_selector hs rfl rfl he (Pin.ofCode_eq_none hx) rfl
  case pinGet => exact raisesAtOnce_of_selector hs rfl rfl (Pin.ofCode_eq_none hx) rfl
  case collection => exact raisesAtOnce_of_selector hs rfl rfl (CollectionMode.ofCode_eq_none hx) rfl
  case routeSet => exact fun _ => raisesAtOnce_of_selector hs rfl rfl (TargetPin.ofIndex_eq_none hx) rfl
  case routeGet => exact raisesAtOnce_of_selector hs rfl rfl (TargetPin.ofIndex_eq_none hx) rfl
  case routeMode =>
    intro i h1 h4
    obtain ⟨p, hp⟩ := TargetPin.exists_ofIndex h1 h4
    exact raisesAtOnce_of_selector_selector hs rfl rfl hp (RouteMode.ofCode_eq_none hx) rfl
  case gpioSet => exact fun _ => raisesAtOnce_of_selector hs rfl rfl (GPIOPin.ofCode_eq_none hx) rfl
  case gpioGet => exact raisesAtOnce_of_selector hs rfl rfl (GPIOPin.ofCode_eq_none hx) rfl
  case gpioState =>
    intro g h6
    obtain ⟨pin, hpin⟩ := GPIOPin.exists_ofCode h6
    exact raisesAtOnce_of_selector_selector hs rfl rfl hpin (GPIOState.ofCode_eq_none hx) rfl
  case channelSet => exact fun _ he => raisesAtOnce_of_boolArg_selector hs rfl rfl he (Channel.ofCode_eq_none hx) rfl
  case channelGet => exact raisesAtOnce_of_selector hs rfl rfl (Channel.ofCode_eq_none hx) rfl
  case clockSource => exact raisesAtOnce_of_selector hs rfl rfl (ClockSource.ofCode_eq_none hx) rfl
  case targetClockOut => exact raisesAtOnce_of_selector hs rfl rfl (TargetClockOut.ofCode_eq_none hx) rfl
  case trigModule => exact raisesAtOnce_of_selector hs rfl rfl (TriggerModule.ofCode_eq_none hx) rfl

end Sys2Proof.Machine
end

section
/-! The configuration registers (spec/20_memory.md R63): a READ's response, the admitted width, and what a replacement of the
bytes leaves. -/

namespace Sys2Proof.Machine

/-- Idle, with IORoute at its width (R63) and the bytes bs in configuration register a. -/
structure State.Serves (s : State) (a : Nat) (bs : List Byte) : Prop where
  idle : s.phase = .idle
  routeWidth : s.ioRoute.length = s.cfg.params.ioRouteLen
  register : s.configRegister a = some bs

/-- A READ of a configuration register returns its bytes and draws none (R100). -/
theorem response_of_configRegister {s : State} {a : Nat} {bs : List Byte} (hc : s.configRegister a = some bs) :
    s.response a = (bs, 0) := by
  unfold State.configRegister at hc
  split at hc <;> cases hc <;> rfl

theorem afterRead_buf {s : State} {a : Nat} {bs : List Byte} (hc : s.configRegister a = some bs) (op : Instr) (n : Nat) :
    (s.afterRead op a n).buf = some bs :=
  congrArg (fun r : List Byte × Nat => some r.1) (response_of_configRegister hc)

/-- The addresses R104 admits are those of the configuration registers. -/
theorem isConfigRegister_eq_isSome (s : State) (a : Nat) : isConfigRegister a = (s.configRegister a).isSome := by
  unfold State.configRegister
  split
  case h_5 h38 h39 h40 h55 =>
    simp only [isConfigRegister, Option.isSome_none, Bool.or_eq_false_iff, beq_eq_false_iff_ne]
    exact ⟨⟨⟨h38, h39⟩, h40⟩, h55⟩
  all_goals rfl

theorem widthOf_of_configRegister {s : State} {a : Nat} {bs : List Byte}
    (hroute : s.ioRoute.length = s.cfg.params.ioRouteLen) (hc : s.configRegister a = some bs) :
    widthOf s.cfg.params a = some bs.length := by
  unfold State.configRegister at hc
  split at hc <;> cases hc
  case h_4 => exact congrArg some hroute.symm
  all_goals rfl

theorem State.Serves.width {s : State} {a : Nat} {bs : List Byte} (h : s.Serves a bs) :
    widthOf s.cfg.params a = some bs.length :=
  widthOf_of_configRegister h.routeWidth h.register

theorem State.Serves.admitted {s : State} {a : Nat} {bs : List Byte} (h : s.Serves a bs) :
    admitted s.cfg.params a bs.length = true := by
  simp [Machine.admitted, h.width]

/-- A register whose bytes were replaced by as many others holds those. -/
theorem State.Serves.withConfig {s : State} {a : Nat} {bs v : List Byte} (h : s.Serves a bs)
    (hv : v.length = bs.length) : (s.withConfig a v).Serves a v := by
  obtain ⟨hidle, hroute, hc⟩ := h
  unfold State.configRegister at hc
  split at hc <;> cases hc
  case h_4 => exact ⟨hidle, hv.trans hroute, rfl⟩
  all_goals
    obtain ⟨b, rfl⟩ := List.length_eq_one_iff.1 hv
    exact ⟨hidle, hroute, rfl⟩

/-- States that agree have the same value of whatever looks at the spec's fields alone. -/
theorem State.agrees.field {t u : State} (h : t.agrees u) {α : Type} (f : State → α) : f t.specPart = f u.specPart :=
  congrArg f h

/-- An operation's end leaves what the configuration registers hold. -/
theorem State.Serves.of_agrees_ended {t u : State} {a : Nat} {bs : List Byte} {rep : Report} {tr : List Traffic}
    (h : u.Serves a bs) (ht : t.agrees (u.ended rep tr)) : t.Serves a bs where
  idle := ht.field State.phase
  routeWidth := calc
    t.ioRoute.length = u.ioRoute.length := ht.field (·.ioRoute.length)
    _ = u.cfg.params.ioRouteLen := h.routeWidth
    _ = t.cfg.params.ioRouteLen := (ht.field (·.cfg.params.ioRouteLen)).symm
  register := (ht.field (·.configRegister a)).trans h.register

theorem report_of_agrees_finished {t u : State} {r : Result} {tr : List Traffic} (ht : t.agrees (u.finished r tr)) :
    t.report = .ok r :=
  ht.field State.report

end Sys2Proof.Machine
end

section
/-! The READ command (spec/40_transport_rmw.md R100, spec/45_i2c_master.md R174). -/

namespace Sys2Proof.Machine

theorem inCommandTable_iff {p : Params} {a n : Nat} : InCommandTable p a n ↔ admitted p a n = true :=
  (admitted_iff p a n).symm

/-- A READ that is admitted and completes reports its response and changes nothing else. -/
theorem exec_read_completes {s : State} {a n : Nat} (hs : s.phase = .idle) (ha : InCommandTable s.cfg.params a n)
    (hl : s.linkFails 0 = false) :
    ∃ t, exec (.read a n) s = .next t ∧
      t.agrees (s.finished (.bytes (s.response a).1) [.read a n (some (s.response a).1)]) :=
  getter_completes rfl hs (inCommandTable_iff.1 ha) hl rfl rfl

/-- A READ that is not admitted is refused (R63). -/
theorem exec_read_refused {s : State} {a n : Nat} (hs : s.phase = .idle) (ha : ¬InCommandTable s.cfg.params a n) :
    IsRefused (.read a n) s := by
  have hna : admitted (s.accept (.read a n)).cfg.params a n = false := Bool.eq_false_iff.2 (mt inCommandTable_iff.2 ha)
  have hend : exec (.read a n) s = .next ((s.accept (.read a n)).refusedIn (.read a n) .commandAddress) :=
    request_ends hs (congrArg Host.Outcome.next (doRead_refused hna))
      (atRest_of_restPhase (op := .read a n) (ok := false) rfl)
  exact ⟨_, hend, by
    simp [State.agrees, State.specPart, State.declined, State.refusedIn, State.refuse, State.accept, restPhase, hs]⟩

/-- The status word has NACK in bit 0, where the flag is defined and the engine idle (R174). -/
theorem statusFirst_getLsbD_zero {nack : Option Bool} {eng : Engine} {n : Bool} (hn : nack = some n) (he : eng = .idle)
    (d : Byte) : (statusFirst nack eng d).getLsbD 0 = n := by
  rw [hn, he, statusFirst_bit_zero]

/-- A READ of I2CData returns one byte: the receive byte, where it is defined and the engine idle (R174). -/
theorem response_data (s : State) :
    ∃ d, (s.response 48).1 = [d] ∧ ∀ b, s.rxd = some b → s.eng = .idle → d = b := by
  cases hr : s.rxd with
  | none => exact ⟨s.noiseAt 0, by simp [State.response, hr], nofun⟩
  | some b =>
    cases he : s.eng with
    | idle => exact ⟨b, by simp [State.response, hr, he], fun _ hc _ => Option.some.inj hc⟩
    | busy txn => exact ⟨s.noiseAt 0, by simp [State.response, hr, he], nofun⟩
    | undefined => exact ⟨s.noiseAt 0, by simp [State.response, hr, he], nofun⟩

/-- Settles O12: what a READ reports is the response of its address, and the response is that of the register. -/
theorem readReturnsTheRegister : Obligations.ReadReturnsTheRegister := by
  intro s a n hs
  refine ⟨fun hl => ⟨fun ha bs hc => ?config, ?status, ?data⟩,
    fun ha => failsWithItsRead_of rfl hs rfl (inCommandTable_iff.1 ha) rfl, exec_read_refused hs⟩
  case config => simpa only [response_of_configRegister hc] using exec_read_completes hs ha hl
  case status =>
    rintro rfl rfl
    obtain ⟨t, hx, hagrees⟩ := exec_read_completes hs (inCommandTable_iff.2 (admitted_status _)) hl
    exact ⟨_, _, _, t, hx, fun _ hn he => statusFirst_getLsbD_zero hn he _, hagrees⟩
  case data =>
    rintro rfl rfl
    obtain ⟨t, hx, hagrees⟩ := exec_read_completes hs (inCommandTable_iff.2 (admitted_data _)) hl
    obtain ⟨d, hd, hrx⟩ := response_data s
    rw [hd] at hagrees
    exact ⟨d, t, hx, hrx, hagrees⟩

end Sys2Proof.Machine
end

section
/-! Register fields (spec/40_transport_rmw.md R104): which descriptors are valid, and the two pure functions FIELD_SET and
FIELD_GET compute, bit by bit. -/

namespace Sys2Proof.Machine

/-- A field of a register of n bytes (R104). -/
structure IsField (n byteOff bitOff width : Nat) : Prop where
  byte : byteOff < n
  nonempty : width ≠ 0
  inside : bitOff + width ≤ 8

/-- The bytes bs with value v in a field, complemented where `inverted` (R104). -/
def fieldWritten (bs : List Byte) (byteOff bitOff width : Nat) (inverted : Bool) (v : Byte) : List Byte :=
  bs.set byteOff (setbits (byteAt bs byteOff) bitOff width (polarity inverted width v))

/-- The value of a field of the bytes bs, complemented where `inverted` (R105). -/
def fieldRead (bs : List Byte) (byteOff bitOff width : Nat) (inverted : Bool) : Byte :=
  polarity inverted width (getbits (byteAt bs byteOff) bitOff width)

/-- The valid descriptors are those of a field of a configuration register. -/
theorem descriptorValid_iff {s : State} (hroute : s.ioRoute.length = s.cfg.params.ioRouteLen) (a b o w : Nat) :
    descriptorValid s.cfg.params a b o w = true ↔ ∃ bs, s.configRegister a = some bs ∧ IsField bs.length b o w := by
  cases hc : s.configRegister a with
  | none => simp [descriptorValid, isConfigRegister_eq_isSome s, hc]
  | some bs =>
    have hvalid : descriptorValid s.cfg.params a b o w = true ↔ (b < bs.length ∧ w ≠ 0) ∧ o + w ≤ 8 := by
      simp [descriptorValid, isConfigRegister_eq_isSome s, hc, widthOf_of_configRegister hroute hc]
    rw [hvalid]
    constructor
    · exact fun ⟨⟨hb, hw⟩, ho⟩ => ⟨bs, rfl, hb, hw, ho⟩
    · rintro ⟨_, hbs, hb, hw, ho⟩
      obtain rfl := Option.some.inj hbs
      exact ⟨⟨hb, hw⟩, ho⟩

theorem State.Serves.descriptorValid {s : State} {a b o w : Nat} {bs : List Byte} (h : s.Serves a bs)
    (hf : IsField bs.length b o w) : descriptorValid s.cfg.params a b o w = true :=
  (descriptorValid_iff h.routeWidth a b o w).2 ⟨bs, h.register, hf⟩

/-! Polarity -/

theorem polarity_eq_ite (inverted : Bool) (w : Nat) (v : Byte) :
    polarity inverted w v = if inverted then v ^^^ BitVec.ofNat 8 (2 ^ w - 1) else v := by
  simp [polarity, mask]

/-- The complement of a field value, bit by bit. -/
theorem polarity_getLsbD (inverted : Bool) (w : Nat) (v : Byte) {j : Nat} (hj : j < 8) :
    (polarity inverted w v).getLsbD j = (v.getLsbD j ^^ (inverted && decide (j < w))) := by
  cases inverted
  · simp [polarity]
  · rw [polarity, if_pos rfl, BitVec.getLsbD_xor, mask_getLsbD]
    simp [hj]

theorem polarity_polarity (inverted : Bool) (w : Nat) (v : Byte) : polarity inverted w (polarity inverted w v) = v :=
  byte_ext fun j hj => by simp [polarity_getLsbD _ _ _ hj]

/-- The complement within a field of a value that fits it fits it too. -/
theorem polarity_toNat_lt (inverted : Bool) {w : Nat} {v : Byte} (hv : v.toNat < 2 ^ w) :
    (polarity inverted w v).toNat < 2 ^ w := by
  cases inverted with
  | false => exact hv
  | true =>
    have hmask : (mask 0 w).toNat < 2 ^ w := calc
      (mask 0 w).toNat = (2 ^ w - 1) % 256 := by simp [mask]
      _ ≤ 2 ^ w - 1 := Nat.mod_le _ _
      _ < 2 ^ w := Nat.sub_lt (Nat.two_pow_pos w) Nat.one_pos
    exact (BitVec.toNat_xor v (mask 0 w)).trans_lt (Nat.xor_lt_two_pow hv hmask)

/-! Writing and reading a field -/

@[simp] theorem fieldWritten_length (bs : List Byte) (b o w : Nat) (inverted : Bool) (v : Byte) :
    (fieldWritten bs b o w inverted v).length = bs.length :=
  List.length_set

theorem byteAt_set (bs : List Byte) {b : Nat} (hb : b < bs.length) (x : Byte) (k : Nat) :
    byteAt (bs.set b x) k = if k = b then x else byteAt bs k := by
  by_cases h : k = b
  · subst h
    simp [byteAt, hb]
  · simp [byteAt, h, List.getElem?_set_ne (Ne.symm h)]

/-- A field write leaves every bit outside the field. -/
theorem fieldWritten_getLsbD_outside {bs : List Byte} {b o w : Nat} (hf : IsField bs.length b o w) (inverted : Bool)
    (v : Byte) {k j : Nat} (hj : j < 8) (hout : ¬(k = b ∧ o ≤ j ∧ j < o + w)) :
    (byteAt (fieldWritten bs b o w inverted v) k).getLsbD j = (byteAt bs k).getLsbD j := by
  rw [fieldWritten, byteAt_set bs hf.byte]
  split
  case isTrue h =>
    subst h
    exact setbits_getLsbD_outside _ _ hj (by omega)
  case isFalse => rfl

/-- A field read bit by bit (R105). -/
theorem fieldRead_getLsbD (bs : List Byte) (b o w : Nat) (inverted : Bool) {j : Nat} (hj : j < 8) :
    (fieldRead bs b o w inverted).getLsbD j = (decide (j < w) && ((byteAt bs b).getLsbD (o + j) != inverted)) := by
  rw [fieldRead, polarity_getLsbD _ _ _ hj, getbits_getLsbD _ _ _ _ hj]
  by_cases hjw : j < w <;> simp [hjw]

/-- A field read depends on the field's bits alone. -/
theorem fieldRead_congr {bs cs : List Byte} {b o w : Nat} (inverted : Bool)
    (h : ∀ j, j < w → (byteAt bs b).getLsbD (o + j) = (byteAt cs b).getLsbD (o + j)) :
    fieldRead bs b o w inverted = fieldRead cs b o w inverted := by
  refine byte_ext fun j hj => ?_
  rw [fieldRead_getLsbD _ _ _ _ _ hj, fieldRead_getLsbD _ _ _ _ _ hj]
  by_cases hjw : j < w
  · rw [h j hjw]
  · simp [hjw]

/-- A field reads as the value written to it (R106). -/
theorem fieldRead_fieldWritten {bs : List Byte} {b o w : Nat} (hf : IsField bs.length b o w) (inverted : Bool) {v : Byte}
    (hv : v.toNat < 2 ^ w) : fieldRead (fieldWritten bs b o w inverted v) b o w inverted = v := by
  rw [fieldRead, fieldWritten, byteAt_set bs hf.byte, if_pos rfl,
    getbits_setbits _ hf.inside (polarity_toNat_lt inverted hv), polarity_polarity]

/-- A field keeps its value where a disjoint one is written (R106). -/
theorem fieldRead_fieldWritten_disjoint {bs : List Byte} {b₁ o₁ w₁ b₂ o₂ w₂ : Nat} (h₁ : IsField bs.length b₁ o₁ w₁)
    (h₂ : IsField bs.length b₂ o₂ w₂) (hdisjoint : b₁ ≠ b₂ ∨ o₁ + w₁ ≤ o₂ ∨ o₂ + w₂ ≤ o₁) (i₁ i₂ : Bool) (v : Byte) :
    fieldRead (fieldWritten bs b₂ o₂ w₂ i₂ v) b₁ o₁ w₁ i₁ = fieldRead bs b₁ o₁ w₁ i₁ :=
  fieldRead_congr i₁ fun _ hj =>
    fieldWritten_getLsbD_outside h₂ i₂ v (by have := h₁.inside; omega) (by omega)

end Sys2Proof.Machine
end

section
/-! The transport's draws (spec/40_transport_rmw.md R102): a register operation that completes takes one for each command, so
that a premise on the next commands passes on to the operation after it. -/

namespace Sys2Proof.Machine

theorem linkUp_of_skip {s t : State} {m n : Nat} (ht : t.link = s.link.skip m) (hl : s.linkUp (m + n)) : t.linkUp n := by
  intro k hk
  have hfails : t.linkFails k = s.linkFails (m + k) := by simp only [State.linkFails, ht, Draws.look_skip]
  exact hfails.trans (hl (m + k) (by omega))

theorem engineControlWrite_link (s : State) (w : ControlWord) : (s.engineControlWrite w).link = s.link := by
  unfold State.engineControlWrite
  split
  · rfl
  · rfl
  · split
    · split <;> rfl
    · rfl

theorem transmitWrite_link (s : State) (b : Byte) : (s.transmitWrite b).link = s.link := by
  unfold State.transmitWrite
  split <;> rfl

/-- A command's effect on its register takes no draw of the transport. -/
theorem store_link (s : State) (a : Nat) (v : List Byte) : (s.store a v).link = s.link := by
  unfold State.store
  split
  case h_4 => exact engineControlWrite_link s _
  case h_5 => exact transmitWrite_link s _
  all_goals rfl

section
variable {i : Instr} {body : State → Nat → Act} {s : State} (hx : exec i s = request i body s) (hi : s.phase = .idle)
include hx hi

/-- A getter completes, by one command. -/
theorem getter_completes_drawing {a n : Nat} {r : Result} (ha : admitted s.cfg.params a n = true)
    (hl : s.linkFails 0 = false) (h0 : body (s.accept i) 0 = .read a n) (h1 : body (s.afterRead i a n) 1 = .ret r) :
    ∃ t, exec i s = .next t ∧ t.link = s.link.skip 1 ∧ t.agrees (s.finished r [.read a n (some (s.response a).1)]) := by
  obtain ⟨t, ht, hagrees⟩ := getter_completes hx hi ha hl h0 h1
  obtain rfl := Host.Outcome.next.inj (ht.symm.trans (hx.trans (request_getter hi ha h0 hl h1)))
  exact ⟨_, ht, rfl, hagrees⟩

/-- A setter of a configuration register completes, by two commands. -/
theorem setter_completes_drawing {a : Nat} {old v : List Byte} (hc : s.configRegister a = some old)
    (ho : admitted s.cfg.params a old.length = true) (hv : v.length = old.length) (hl : s.linkUp 2)
    (h0 : body (s.accept i) 0 = .read a old.length) (h1 : body (s.afterRead i a old.length) 1 = .write a v)
    (h2 : ∀ t : State, t.cfg = s.cfg → t.variant = s.variant → t.caps = s.caps → body t 2 = .ret .nothing) :
    ∃ t, exec i s = .next t ∧ t.link = s.link.skip 2 ∧
      t.agrees ((s.withConfig a v).finished .nothing [.read a old.length (some old), .write a v true]) := by
  have hne : a ≠ 47 := by rintro rfl; cases hc
  have hst := store_quiet ((s.afterRead i a old.length).writing a v true) a v
  obtain ⟨t, ht, hagrees⟩ := setter_completes hx hi hc ho hv hl h0 h1 h2
  obtain rfl := Host.Outcome.next.inj (ht.symm.trans (hx.trans (request_setter hi ho (hv ▸ ho) hne h0 (hl 0 (by omega))
    (hl 1 (by omega)) h1 (h2 _ hst.cfg hst.variant hst.caps))))
  exact ⟨_, ht, (store_link _ a v).trans (Draws.skip_skip s.link 1 1), hagrees⟩

end

end Sys2Proof.Machine
end

section
/-! FIELD_SET and FIELD_GET (spec/40_transport_rmw.md R104, R105): what their bodies do at each step, and their outcomes. -/

namespace Sys2Proof.Machine

/-! The bodies -/

section
variable {u : State} {a b o w : Nat} (inverted : Bool)

theorem fieldSetBody_invalid (hd : descriptorValid u.cfg.params a b o w = false) (v pc : Nat) :
    fieldSetBody a b o w inverted.toNat v u pc = .refuse .fieldDescriptor := by
  simp [fieldSetBody, boolArg_toNat, hd]

theorem fieldGetBody_invalid (hd : descriptorValid u.cfg.params a b o w = false) (pc : Nat) :
    fieldGetBody a b o w inverted.toNat u pc = .refuse .fieldDescriptor := by
  simp [fieldGetBody, boolArg_toNat, hd]

variable (hd : descriptorValid u.cfg.params a b o w = true)
include hd

theorem fieldSetBody_unfit {v : Nat} (hv : 2 ^ w ≤ v) (pc : Nat) :
    fieldSetBody a b o w inverted.toNat v u pc = .raise (.invalidParameter [v]) := by
  simp [fieldSetBody, boolArg_toNat, hd, allowed, Nat.not_lt.2 hv]

theorem fieldSetBody_read {v n : Nat} (hv : v < 2 ^ w) (hn : widthOf u.cfg.params a = some n) :
    fieldSetBody a b o w inverted.toNat v u 0 = .read a n := by
  simp [fieldSetBody, boolArg_toNat, hd, allowed, hv, hn]

theorem fieldSetBody_write {v : Nat} (hv : v < 2 ^ w) {bs : List Byte} (hbuf : u.buf = some bs) :
    fieldSetBody a b o w inverted.toNat v u 1 = .write a (fieldWritten bs b o w inverted (BitVec.ofNat 8 v)) := by
  simp [fieldSetBody, boolArg_toNat, hd, allowed, hv, withBuf, hbuf, fieldWritten]

theorem fieldSetBody_return {v : Nat} (hv : v < 2 ^ w) : fieldSetBody a b o w inverted.toNat v u 2 = .ret .nothing := by
  simp [fieldSetBody, boolArg_toNat, hd, allowed, hv]

theorem fieldGetBody_read {n : Nat} (hn : widthOf u.cfg.params a = some n) :
    fieldGetBody a b o w inverted.toNat u 0 = .read a n := by
  simp [fieldGetBody, boolArg_toNat, hd, hn]

theorem fieldGetBody_return {bs : List Byte} (hbuf : u.buf = some bs) :
    fieldGetBody a b o w inverted.toNat u 1 = .ret (.field (fieldRead bs b o w inverted)) := by
  simp [fieldGetBody, boolArg_toNat, hd, withBuf, hbuf, fieldRead]

end

/-! The outcomes -/

section
variable {s : State} {a b o w : Nat} (inverted : Bool)

/-- A descriptor that fails R104's check on the register's bytes is invalid. -/
theorem descriptorValid_eq_false (hroute : s.ioRoute.length = s.cfg.params.ioRouteLen)
    (hbad : ∀ bs, s.configRegister a = some bs → bs.length ≤ b ∨ w = 0 ∨ 8 < o + w) :
    descriptorValid s.cfg.params a b o w = false := by
  rw [Bool.eq_false_iff, ne_eq, descriptorValid_iff hroute]
  rintro ⟨bs, hc, hbyte, hne, hin⟩
  have := hbad bs hc
  omega

variable {bs : List Byte} (hs : s.Serves a bs) (hf : IsField bs.length b o w)
include hs hf

theorem fieldSet_unfit {v : Nat} (hv : 2 ^ w ≤ v) :
    RaisesAtOnce (.fieldSet a b o w inverted.toNat v) s (.invalidParameter [v]) :=
  raisesAtOnce_of rfl hs.idle rfl (fieldSetBody_unfit inverted (hs.descriptorValid hf) hv 0)

section
variable {v : Nat} (hv : v < 2 ^ w)
include hv

theorem fieldSet_completes (hl : s.linkUp 2) :
    ∃ t, exec (.fieldSet a b o w inverted.toNat v) s = .next t ∧ t.link = s.link.skip 2 ∧
      t.agrees ((s.withConfig a (fieldWritten bs b o w inverted (BitVec.ofNat 8 v))).finished .nothing
        [.read a bs.length (some bs), .write a (fieldWritten bs b o w inverted (BitVec.ofNat 8 v)) true]) :=
  have hd := hs.descriptorValid hf
  setter_completes_drawing rfl hs.idle hs.register hs.admitted (fieldWritten_length ..) hl
    (fieldSetBody_read inverted hd hv hs.width)
    (fieldSetBody_write (u := s.afterRead _ a _) inverted hd hv (afterRead_buf hs.register _ _))
    fun _ hcfg _ _ => fieldSetBody_return inverted (hcfg ▸ hd) hv

theorem fieldSet_failsWithItsRead : FailsWithItsRead (.fieldSet a b o w inverted.toNat v) s a bs.length :=
  failsWithItsRead_of rfl hs.idle rfl hs.admitted (fieldSetBody_read inverted (hs.descriptorValid hf) hv hs.width)

theorem fieldSet_failsWithItsWrite : FailsWithItsWrite (.fieldSet a b o w inverted.toNat v) s a bs.length bs
    (fieldWritten bs b o w inverted (BitVec.ofNat 8 v)) :=
  have hd := hs.descriptorValid hf
  failsWithItsWrite_of rfl hs.idle rfl hs.register hs.admitted (fieldWritten_length ..)
    (fieldSetBody_read inverted hd hv hs.width)
    (fieldSetBody_write (u := s.afterRead _ a _) inverted hd hv (afterRead_buf hs.register _ _))

end

theorem fieldGet_completes (hl : s.linkFails 0 = false) :
    ∃ t, exec (.fieldGet a b o w inverted.toNat) s = .next t ∧ t.link = s.link.skip 1 ∧
      t.agrees (s.finished (.field (fieldRead bs b o w inverted)) [.read a bs.length (some bs)]) := by
  have hd := hs.descriptorValid hf
  simpa only [response_of_configRegister hs.register] using
    getter_completes_drawing rfl hs.idle hs.admitted hl (fieldGetBody_read inverted hd hs.width)
      (fieldGetBody_return (u := s.afterRead _ a _) inverted hd (afterRead_buf hs.register _ _))

theorem fieldGet_failsWithItsRead : FailsWithItsRead (.fieldGet a b o w inverted.toNat) s a bs.length :=
  failsWithItsRead_of rfl hs.idle rfl hs.admitted (fieldGetBody_read inverted (hs.descriptorValid hf) hs.width)

end

/-- Settles O18: with the field's bytes at hand each clause is an outcome above. -/
theorem fieldSetReplacesTheField : Obligations.FieldSetReplacesTheField := by
  intro s addr byteOff bitOff width value inverted hidle hroute i
  refine ⟨fun bs hc hbyte hne hin => ?valid, fun hbad => ?invalid⟩
  case valid =>
    have hs : s.Serves addr bs := ⟨hidle, hroute, hc⟩
    have hf : IsField bs.length byteOff bitOff width := ⟨hbyte, hne, hin⟩
    have hstored : FieldReplaced (byteAt bs byteOff) bitOff width
        (if inverted then BitVec.ofNat 8 value ^^^ BitVec.ofNat 8 (2 ^ width - 1) else BitVec.ofNat 8 value)
        (setbits (byteAt bs byteOff) bitOff width (polarity inverted width (BitVec.ofNat 8 value))) :=
      polarity_eq_ite inverted width _ ▸ setbits_fieldReplaced _ _ bitOff width
    exact ⟨fun hv => ⟨_, hstored, fun hl => (fieldSet_completes inverted hs hf hv hl).imp fun _ h => ⟨h.1, h.2.2⟩,
      fieldSet_failsWithItsRead inverted hs hf hv, fieldSet_failsWithItsWrite inverted hs hf hv⟩,
      fieldSet_unfit inverted hs hf⟩
  case invalid =>
    exact isRefused_of rfl hidle rfl (fieldSetBody_invalid inverted (descriptorValid_eq_false hroute hbad) value 0)

/-- Settles O19: the result is `fieldRead` of the register's bytes. -/
theorem fieldGetReturnsTheField : Obligations.FieldGetReturnsTheField := by
  intro s addr byteOff bitOff width inverted hidle hroute i
  refine ⟨fun bs hc hbyte hne hin => ?valid, fun hbad => ?invalid⟩
  case valid =>
    have hs : s.Serves addr bs := ⟨hidle, hroute, hc⟩
    have hf : IsField bs.length byteOff bitOff width := ⟨hbyte, hne, hin⟩
    refine ⟨fun hl => ?_, fieldGet_failsWithItsRead inverted hs hf⟩
    obtain ⟨t, hx, -, hagrees⟩ := fieldGet_completes inverted hs hf hl
    exact ⟨_, t, fun j hj => fieldRead_getLsbD bs byteOff bitOff width inverted hj, hx, hagrees⟩
  case invalid =>
    exact isRefused_of rfl hidle rfl (fieldGetBody_invalid inverted (descriptorValid_eq_false hroute hbad) 0)

end Sys2Proof.Machine
end

section
/-! Sequences of field operations (spec/40_transport_rmw.md R106): each leaves a register that can be asked again, and has
taken one draw of the transport for each command. -/

namespace Sys2Proof.Machine

theorem execAll_cons {i : Instr} {rest : List Instr} {s t : State} (h : exec i s = .next t) :
    execAll (i :: rest) s = execAll rest t := by
  simp only [execAll, h]

/-! One operation of a sequence -/

section
variable {s : State} {a b o w : Nat} {bs : List Byte} (inverted : Bool) (hs : s.Serves a bs) (hf : IsField bs.length b o w)
include hs hf

/-- FIELD_SET leaves the register with the field written (R104). -/
theorem fieldSet_serves {v n : Nat} (hv : v < 2 ^ w) (hl : s.linkUp (2 + n)) :
    ∃ t, exec (.fieldSet a b o w inverted.toNat v) s = .next t ∧
      t.Serves a (fieldWritten bs b o w inverted (BitVec.ofNat 8 v)) ∧ t.linkUp n := by
  have hl2 : s.linkUp 2 := fun k hk => hl k (by omega)
  obtain ⟨t, hx, hlink, hagrees⟩ := fieldSet_completes inverted hs hf hv hl2
  exact ⟨t, hx, (hs.withConfig (fieldWritten_length ..)).of_agrees_ended hagrees,
    linkUp_of_skip hlink hl⟩

/-- FIELD_GET reports the field and leaves the register (R105). -/
theorem fieldGet_serves {n : Nat} (hl : s.linkUp (1 + n)) :
    ∃ t, exec (.fieldGet a b o w inverted.toNat) s = .next t ∧ t.report = .ok (.field (fieldRead bs b o w inverted)) ∧
      t.Serves a bs ∧ t.linkUp n := by
  have hl0 : s.linkFails 0 = false := hl 0 (by omega)
  obtain ⟨t, hx, hlink, hagrees⟩ := fieldGet_completes inverted hs hf hl0
  exact ⟨t, hx, report_of_agrees_finished hagrees, hs.of_agrees_ended hagrees,
    linkUp_of_skip hlink hl⟩

end

/-- A field of the register is one still once another has been written. -/
theorem IsField.of_written {bs : List Byte} {b o w : Nat} (hf : IsField bs.length b o w) (b' o' w' : Nat) (i : Bool)
    (v : Byte) : IsField (fieldWritten bs b' o' w' i v).length b o w := by
  rwa [fieldWritten_length]

theorem toNat_ofNat_lt {v w : Nat} (hv : v < 2 ^ w) : (BitVec.ofNat 8 v).toNat < 2 ^ w :=
  (Nat.mod_le v (2 ^ 8)).trans_lt hv

/-- Settles O20: each operation leaves a register the next can use, and a written field reads as its value, also where a
disjoint one has been written since. -/
theorem fieldRoundTrip : Obligations.FieldRoundTrip := by
  intro s addr b₁ o₁ w₁ v₁ i₁ bs hidle hroute hc hb₁ hw₁ ho₁ hv₁
  have hs : s.Serves addr bs := ⟨hidle, hroute, hc⟩
  have hf₁ : IsField bs.length b₁ o₁ w₁ := ⟨hb₁, hw₁, ho₁⟩
  have hread₁ := fieldRead_fieldWritten hf₁ i₁ (toNat_ofNat_lt hv₁)
  constructor
  case left =>
    intro hl
    obtain ⟨t, hset, ht, htl⟩ := fieldSet_serves (n := 1) i₁ hs hf₁ hv₁ hl
    obtain ⟨u, hget, hreport, hu, -⟩ := fieldGet_serves (n := 0) i₁ ht (hf₁.of_written ..) htl
    rw [hread₁] at hreport
    refine ⟨u, _, ?_, hreport, hu.register, fieldWritten_length .., fun k j => fieldWritten_getLsbD_outside hf₁ i₁ _⟩
    rw [execAll_cons hset, execAll_cons hget, execAll]
  case right =>
    intro b₂ o₂ w₂ v₂ i₂ hl hb₂ hw₂ ho₂ hv₂ hdisjoint
    have hf₂ : IsField bs.length b₂ o₂ w₂ := ⟨hb₂, hw₂, ho₂⟩
    obtain ⟨t, hset₁, ht, htl⟩ := fieldSet_serves (n := 4) i₁ hs hf₁ hv₁ hl
    obtain ⟨u, hset₂, hu, hul⟩ := fieldSet_serves (n := 2) i₂ ht (hf₂.of_written ..) hv₂ htl
    obtain ⟨x, hget₁, hreport₁, hx, hxl⟩ := fieldGet_serves (n := 1) i₁ hu ((hf₁.of_written ..).of_written ..) hul
    obtain ⟨y, hget₂, hreport₂, -, -⟩ := fieldGet_serves (n := 0) i₂ hx ((hf₂.of_written ..).of_written ..) hxl
    rw [fieldRead_fieldWritten_disjoint (hf₁.of_written ..) (hf₂.of_written ..) hdisjoint, hread₁] at hreport₁
    rw [fieldRead_fieldWritten (hf₂.of_written ..) i₂ (toNat_ofNat_lt hv₂)] at hreport₂
    refine ⟨x, ?_, hreport₁, y, hget₂, hreport₂⟩
    rw [execAll_cons hset₁, execAll_cons hset₂, execAll_cons hget₁, execAll]

end Sys2Proof.Machine
end

section
/-! Trigger pins and collection mode (spec/41_trigger_pins.md R110 to R113): the codes of the pins, the decoding of the mode's
field, what the four bodies do at each step, and their outcomes. -/

namespace Sys2Proof

/-- The codes up to 5 are those of the pins. -/
theorem Pin.exists_ofCode : ∀ {c : Nat}, c < 6 → ∃ p, Pin.ofCode c = some p
  | 0, _ => ⟨.frontPanelA, rfl⟩
  | 1, _ => ⟨.frontPanelB, rfl⟩
  | 2, _ => ⟨.targetIO1, rfl⟩
  | 3, _ => ⟨.targetIO2, rfl⟩
  | 4, _ => ⟨.targetIO3, rfl⟩
  | 5, _ => ⟨.targetIO4, rfl⟩

/-- The code of a pin (R89). -/
def Pin.code : Pin → Nat
  | .frontPanelA => 0
  | .frontPanelB => 1
  | .targetIO1 => 2
  | .targetIO2 => 3
  | .targetIO3 => 4
  | .targetIO4 => 5

theorem Pin.code_of_ofCode : ∀ {c : Nat} {p : Pin}, Pin.ofCode c = some p → p.code = c
  | 0, _, rfl => rfl
  | 1, _, rfl => rfl
  | 2, _, rfl => rfl
  | 3, _, rfl => rfl
  | 4, _, rfl => rfl
  | 5, _, rfl => rfl

/-- Two codes of pins have the same bit of the pin mask only where they are the same code (P4). -/
theorem Board.pinBit_eq_iff (b : Board) {c d : Nat} {p q : Pin} (hp : Pin.ofCode c = some p) (hq : Pin.ofCode d = some q) :
    b.params.pinBit p = b.params.pinBit q ↔ c = d := by
  constructor
  · intro h
    obtain rfl := b.pinBit_inj h
    exact (Pin.code_of_ofCode hp).symm.trans (Pin.code_of_ofCode hq)
  · rintro rfl
    rw [Option.some.inj (hp.symm.trans hq)]

end Sys2Proof

namespace Sys2Proof.Machine

/-! The CollectionMode field -/

/-- The topmost field of a byte is the byte divided. -/
theorem getbits_top_toNat (v : Byte) {lo w : Nat} (hw : lo + w = 8) : (getbits v lo w).toNat = v.toNat / 2 ^ lo := by
  have hshift : getbits v lo w = v >>> lo := by
    refine byte_ext fun j hj => ?_
    rw [getbits_getLsbD v lo w j hj, BitVec.getLsbD_ushiftRight]
    by_cases hjw : j < w
    · simp [hjw]
    · simp [hjw, BitVec.getLsbD_of_ge v (lo + j) (by omega)]
  rw [hshift, BitVec.toNat_ushiftRight, Nat.shiftRight_eq_div_pow]

/-- A field that holds a mode's code decodes as that mode (R113). -/
theorem decodeCollection_of_code (b : Board) {c : Byte} {m : CollectionMode} (h : (b.params.collectCode m).setWidth 8 = c) :
    decodeCollection b.params c = .collectionMode m := by
  have hmem : m ∈ [CollectionMode.or, .and, .nand] := by cases m <;> decide
  have honly : ∀ x ∈ [CollectionMode.or, .and, .nand], (b.params.collectCode x).setWidth 8 = c → x = m :=
    fun _ _ hx => b.collectCode_inj (setWidth_inj (by decide) (hx.trans h.symm))
  rw [decodeCollection, memberOf_eq_some hmem h honly]

/-- A field that holds no mode's code decodes as unrecognised (R29). -/
theorem decodeCollection_of_no_code {p : Params} {c : Byte} (h : ∀ m, (p.collectCode m).setWidth 8 ≠ c) :
    decodeCollection p c = .unrecognised c.toNat := by
  rw [decodeCollection, memberOf_eq_none fun m _ => h m]

/-- The field reads as the code written to it. -/
theorem getbits_setbits_collectCode (p : Params) (v : Byte) (m : CollectionMode) :
    getbits (setbits v 6 2 ((p.collectCode m).setWidth 8)) 6 2 = (p.collectCode m).setWidth 8 :=
  getbits_setbits v (by decide) ((BitVec.toNat_setWidth_of_le (by decide)).trans_lt (p.collectCode m).isLt)

/-! The bodies -/

section
variable {pin : Nat} {p : Pin} (hp : Pin.ofCode pin = some p) (on : Bool) (u : State)
include hp

theorem setPinBody_read : setPinBody pin on.toNat u 0 = .read 39 1 := by
  simp [setPinBody, boolArg_toNat, selector_of_some hp]

theorem setPinBody_write {u : State} {v : Byte} (hbuf : u.buf = some [v]) :
    setPinBody pin on.toNat u 1 = .write 39 [putBit v (u.cfg.params.pinBit p) on] := by
  simp [setPinBody, boolArg_toNat, selector_of_some hp, withBuf, hbuf, byteAt]

theorem setPinBody_return : setPinBody pin on.toNat u 2 = .ret .nothing := by
  simp [setPinBody, boolArg_toNat, selector_of_some hp]

theorem getPinBody_read : getPinBody pin u 0 = .read 39 1 := by
  simp [getPinBody, selector_of_some hp]

theorem getPinBody_return {u : State} {v : Byte} (hbuf : u.buf = some [v]) :
    getPinBody pin u 1 = .ret (.bool (v.getLsbD (u.cfg.params.pinBit p))) := by
  simp [getPinBody, selector_of_some hp, withBuf, hbuf, byteAt]

end

section
variable {mode : Nat} {m : CollectionMode} (hm : CollectionMode.ofCode mode = some m) (u : State)
include hm

theorem setCollectionModeBody_read : setCollectionModeBody mode u 0 = .read 39 1 := by
  simp [setCollectionModeBody, selector_of_some hm]

theorem setCollectionModeBody_write {u : State} {v : Byte} (hbuf : u.buf = some [v]) :
    setCollectionModeBody mode u 1 = .write 39 [setbits v 6 2 ((u.cfg.params.collectCode m).setWidth 8)] := by
  simp [setCollectionModeBody, selector_of_some hm, withBuf, hbuf, byteAt]

theorem setCollectionModeBody_return : setCollectionModeBody mode u 2 = .ret .nothing := by
  simp [setCollectionModeBody, selector_of_some hm]

end

theorem getCollectionModeBody_return {u : State} {v : Byte} (hbuf : u.buf = some [v]) :
    getCollectionModeBody u 1 = .ret (decodeCollection u.cfg.params (getbits v 6 2)) := by
  simp [getCollectionModeBody, withBuf, hbuf, byteAt]

/-! The outcomes -/

theorem configRegister_trigSrc (s : State) : s.configRegister 39 = some [s.trigSrc] := rfl

theorem afterRead_trigSrc (s : State) (op : Instr) : (s.afterRead op 39 1).buf = some [s.trigSrc] :=
  afterRead_buf (configRegister_trigSrc s) op 1

section
variable {s : State} (hs : s.phase = .idle)
include hs

section
variable {pin : Nat} {p : Pin} (hp : Pin.ofCode pin = some p) (on : Bool)
include hp

theorem setPin_completes (hl : s.linkUp 2) :
    ∃ t, exec (.setPin pin on.toNat) s = .next t ∧ t.link = s.link.skip 2 ∧
      t.agrees (State.finished { s with trigSrc := putBit s.trigSrc (s.cfg.params.pinBit p) on } .nothing
        [.read 39 1 (some [s.trigSrc]), .write 39 [putBit s.trigSrc (s.cfg.params.pinBit p) on] true]) :=
  setter_completes_drawing rfl hs (configRegister_trigSrc s) rfl rfl hl (setPinBody_read hp on _)
    (setPinBody_write hp on (afterRead_trigSrc s _)) fun t _ _ _ => setPinBody_return hp on t

theorem getPin_completes (hl : s.linkFails 0 = false) :
    ∃ t, exec (.getPin pin) s = .next t ∧
      t.agrees (s.finished (.bool (s.trigSrc.getLsbD (s.cfg.params.pinBit p))) [.read 39 1 (some [s.trigSrc])]) :=
  getter_completes rfl hs rfl hl (getPinBody_read hp _) (getPinBody_return hp (afterRead_trigSrc s _))

end

theorem setCollectionMode_completes {mode : Nat} {m : CollectionMode} (hm : CollectionMode.ofCode mode = some m)
    (hl : s.linkUp 2) :
    ∃ t, exec (.setCollectionMode mode) s = .next t ∧ t.link = s.link.skip 2 ∧
      t.agrees (State.finished { s with trigSrc := setbits s.trigSrc 6 2 ((s.cfg.params.collectCode m).setWidth 8) }
        .nothing [.read 39 1 (some [s.trigSrc]),
          .write 39 [setbits s.trigSrc 6 2 ((s.cfg.params.collectCode m).setWidth 8)] true]) :=
  setter_completes_drawing rfl hs (configRegister_trigSrc s) rfl rfl hl (setCollectionModeBody_read hm _)
    (setCollectionModeBody_write hm (afterRead_trigSrc s _)) fun t _ _ _ => setCollectionModeBody_return hm t

theorem getCollectionMode_completes (hl : s.linkFails 0 = false) :
    ∃ t, exec .getCollectionMode s = .next t ∧
      t.agrees (s.finished (decodeCollection s.cfg.params (getbits s.trigSrc 6 2)) [.read 39 1 (some [s.trigSrc])]) :=
  getter_completes rfl hs rfl hl rfl (getCollectionModeBody_return (afterRead_trigSrc s _))

end

/-! The obligations -/

/-- Settles O22: the byte written is the one read with the pin's bit put. -/
theorem setPinWritesItsBit : Obligations.SetPinWritesItsBit := by
  intro s pin on hs
  refine ⟨fun p hp => ⟨_, putBit_bitReplaced _ _ on, fun hl => ?completes, ?read, ?write⟩, fun hpin => ?outside⟩
  case completes =>
    obtain ⟨t, hx, -, hagrees⟩ := setPin_completes hs hp on hl
    exact ⟨t, hx, hagrees⟩
  case read =>
    exact failsWithItsRead_of rfl hs rfl rfl (setPinBody_read hp on _)
  case write =>
    exact failsWithItsWrite_of rfl hs rfl (configRegister_trigSrc s) rfl rfl (setPinBody_read hp on _)
      (setPinBody_write hp on (afterRead_trigSrc s _))
  case outside =>
    exact raisesAtOnce_of_boolArg_selector hs rfl rfl on.toNat_le (Pin.ofCode_eq_none hpin) rfl

/-- Settles O23: the result is the pin's bit of the byte read. -/
theorem getPinReturnsItsBit : Obligations.GetPinReturnsItsBit := by
  intro s pin hs
  exact ⟨fun p hp => ⟨getPin_completes hs hp, failsWithItsRead_of rfl hs rfl rfl (getPinBody_read hp _)⟩,
    fun hpin => raisesAtOnce_of_selector hs rfl rfl (Pin.ofCode_eq_none hpin) rfl⟩

/-- Settles O24: the byte written is the one read with the mode's code in bits 7:6. -/
theorem setCollectionModeWritesBits7To6 : Obligations.SetCollectionModeWritesBits7To6 := by
  intro s mode hs
  refine ⟨fun m hm => ⟨_, setbits_fieldReplaced _ _ 6 2, fun hl => ?completes, ?read, ?write⟩, fun hmode => ?outside⟩
  case completes =>
    obtain ⟨t, hx, -, hagrees⟩ := setCollectionMode_completes hs hm hl
    exact ⟨t, hx, hagrees⟩
  case read =>
    exact failsWithItsRead_of rfl hs rfl rfl (setCollectionModeBody_read hm _)
  case write =>
    exact failsWithItsWrite_of rfl hs rfl (configRegister_trigSrc s) rfl rfl (setCollectionModeBody_read hm _)
      (setCollectionModeBody_write hm (afterRead_trigSrc s _))
  case outside =>
    exact raisesAtOnce_of_selector hs rfl rfl (CollectionMode.ofCode_eq_none hmode) rfl

/-- Settles O25: bits 7:6 hold a mode's code just where the field read, as a byte, is that code. -/
theorem getCollectionModeDecodesBits7To6 : Obligations.GetCollectionModeDecodesBits7To6 := by
  intro s hs
  refine ⟨fun hl => ⟨fun m hcode => ?member, fun hno => ?unassigned⟩, failsWithItsRead_of rfl hs rfl rfl rfl⟩
  case member =>
    have hdecode := decodeCollection_of_code s.cfg ((code_eq_getbits_iff (by decide) _ s.trigSrc 6).2 hcode)
    exact hdecode ▸ getCollectionMode_completes hs hl
  case unassigned =>
    have hne : ∀ m, (s.cfg.params.collectCode m).setWidth 8 ≠ getbits s.trigSrc 6 2 := by
      intro m heq
      obtain ⟨j, hj, hbit⟩ := hno m
      exact hbit ((code_eq_getbits_iff (by decide) _ _ 6).1 heq j hj)
    have hdecode : decodeCollection s.cfg.params (getbits s.trigSrc 6 2) = .unrecognised (s.trigSrc.toNat / 64) :=
      (decodeCollection_of_no_code hne).trans (congrArg Result.unrecognised (getbits_top_toNat s.trigSrc rfl))
    exact hdecode ▸ getCollectionMode_completes hs hl

end Sys2Proof.Machine
end

section
/-! Sequences of trigger operations (spec/41_trigger_pins.md R114): each setter leaves a state the next operation can start
from, and the bits it does not name as they were. -/

namespace Sys2Proof.Machine

/-- Idle on board b, with byte v in TriggerSource and a transport that completes the next n commands. -/
structure State.TriggerReady (s : State) (b : Board) (v : Byte) (n : Nat) : Prop where
  idle : s.phase = .idle
  board : s.cfg = b
  source : s.trigSrc = v
  link : s.linkUp n

/-- A completed write of TriggerSource leaves a state ready with what was written, and two commands fewer. -/
theorem State.TriggerReady.of_written {s t : State} {v : Byte} {n : Nat} {rep : Report} {tr : List Traffic}
    (hl : s.linkUp (2 + n)) (hlink : t.link = s.link.skip 2)
    (hagrees : t.agrees (State.ended { s with trigSrc := v } rep tr)) : t.TriggerReady s.cfg v n where
  idle := hagrees.field State.phase
  board := hagrees.field State.cfg
  source := hagrees.field State.trigSrc
  link := linkUp_of_skip hlink hl

section
variable {s : State} {b : Board} {v : Byte} {n : Nat}

theorem setPin_ready {pin : Nat} {p : Pin} (h : s.TriggerReady b v (2 + n)) (hp : Pin.ofCode pin = some p) (on : Bool) :
    ∃ t, exec (.setPin pin on.toNat) s = .next t ∧ t.TriggerReady b (putBit v (b.params.pinBit p) on) n := by
  obtain ⟨hidle, rfl, rfl, hl⟩ := h
  obtain ⟨t, hx, hlink, hagrees⟩ := setPin_completes hidle hp on fun k hk => hl k (by omega)
  exact ⟨t, hx, .of_written hl hlink hagrees⟩

theorem getPin_reports {pin : Nat} {p : Pin} (h : s.TriggerReady b v 1) (hp : Pin.ofCode pin = some p) :
    ∃ t, exec (.getPin pin) s = .next t ∧ t.report = .ok (.bool (v.getLsbD (b.params.pinBit p))) := by
  obtain ⟨hidle, rfl, rfl, hl⟩ := h
  obtain ⟨t, hx, hagrees⟩ := getPin_completes hidle hp (hl 0 Nat.one_pos)
  exact ⟨t, hx, report_of_agrees_finished hagrees⟩

theorem setCollectionMode_ready {mode : Nat} {m : CollectionMode} (h : s.TriggerReady b v (2 + n))
    (hm : CollectionMode.ofCode mode = some m) :
    ∃ t, exec (.setCollectionMode mode) s = .next t ∧
      t.TriggerReady b (setbits v 6 2 ((b.params.collectCode m).setWidth 8)) n := by
  obtain ⟨hidle, rfl, rfl, hl⟩ := h
  obtain ⟨t, hx, hlink, hagrees⟩ := setCollectionMode_completes hidle hm fun k hk => hl k (by omega)
  exact ⟨t, hx, .of_written hl hlink hagrees⟩

theorem getCollectionMode_reports (h : s.TriggerReady b v 1) :
    ∃ t, exec .getCollectionMode s = .next t ∧ t.report = .ok (decodeCollection b.params (getbits v 6 2)) ∧
      t.trigSrc = v := by
  obtain ⟨hidle, rfl, rfl, hl⟩ := h
  obtain ⟨t, hx, hagrees⟩ := getCollectionMode_completes hidle (hl 0 Nat.one_pos)
  exact ⟨t, hx, report_of_agrees_finished hagrees, hagrees.field State.trigSrc⟩

/-- A write of one pin's bit, seen at pin q: it is what was set where the pin is q, else as before. -/
theorem putBit_pinBit (b : Board) (v : Byte) {c q : Nat} {r p : Pin} (hr : Pin.ofCode c = some r) (hp : Pin.ofCode q = some p)
    (on : Bool) :
    (putBit v (b.params.pinBit r) on).getLsbD (b.params.pinBit p) = if c = q then on else v.getLsbD (b.params.pinBit p) := by
  have hbyte : b.params.pinBit p < 8 := (b.pinBit_lt p).trans (by decide)
  simp only [putBit_getLsbD v _ _ on hbyte, b.pinBit_eq_iff hp hr, eq_comm]

/-- After a sequence of SET_PIN, GET_PIN q answers what the last request for q set, or where there was none the bit before. -/
theorem setPins_getPin {q : Nat} {p : Pin} (hp : Pin.ofCode q = some p) {sets : List (Nat × Bool)}
    (hsets : ∀ x ∈ sets, x.1 < 6) (h : s.TriggerReady b v (2 * sets.length + 1)) :
    ∃ t, execAll (sets.map (fun x => .setPin x.1 x.2.toNat) ++ [.getPin q]) s = .next t ∧ t.report = .ok (.bool
      (sets.foldl (fun bit x => if x.1 = q then x.2 else bit) (v.getLsbD (b.params.pinBit p)))) := by
  induction sets generalizing s v with
  | nil =>
    obtain ⟨t, hx, hreport⟩ := getPin_reports h hp
    exact ⟨t, execAll_cons hx, hreport⟩
  | cons x rest ih =>
    obtain ⟨r, hr⟩ := Pin.exists_ofCode (hsets x List.mem_cons_self)
    have hcount : 2 * (x :: rest).length + 1 = 2 + (2 * rest.length + 1) := by rw [List.length_cons]; omega
    obtain ⟨t, hx, ht⟩ := setPin_ready (hcount ▸ h) hr x.2
    obtain ⟨u, hrest, hreport⟩ := ih (fun y hy => hsets y (List.mem_cons_of_mem x hy)) ht
    rw [putBit_pinBit b v hr hp] at hreport
    exact ⟨u, (execAll_cons hx).trans hrest, hreport⟩

/-- SET_COLLECTION_MODE then GET_COLLECTION_MODE returns the mode and leaves the six pin bits. -/
theorem setCollectionMode_getCollectionMode {mode : Nat} {m : CollectionMode} (h : s.TriggerReady b v 3)
    (hm : CollectionMode.ofCode mode = some m) :
    ∃ t, execAll [.setCollectionMode mode, .getCollectionMode] s = .next t ∧ t.report = .ok (.collectionMode m) ∧
      ∀ j, j < 6 → t.trigSrc.getLsbD j = v.getLsbD j := by
  obtain ⟨t, hset, ht⟩ := setCollectionMode_ready (n := 1) h hm
  obtain ⟨u, hget, hreport, hsource⟩ := getCollectionMode_reports ht
  refine ⟨u, (execAll_cons hset).trans (execAll_cons hget), ?_, fun j hj => ?_⟩
  · rw [hreport, getbits_setbits_collectCode, decodeCollection_of_code b rfl]
  · rw [hsource, setbits_getLsbD_outside _ _ (by omega) (.inl hj)]

end

/-- Settles O26, by induction on the sequence of SET_PIN, and from the masking laws for the mode. -/
theorem pinsAndModeAreIndependent : Obligations.PinsAndModeAreIndependent :=
  ⟨fun _ _ _ _ hidle hl hp hsets => setPins_getPin hp hsets ⟨hidle, rfl, rfl, hl⟩,
    fun _ _ _ hidle hl hm => setCollectionMode_getCollectionMode ⟨hidle, rfl, rfl, hl⟩ hm⟩

end Sys2Proof.Machine
end

section
/-! What the codes of target pins, GPIO pins, GPIO states and glitch channels select (spec/30_encoding.md R89, spec/10_state.md
R36, R38, R40). -/

namespace Sys2Proof

theorem TargetPin.routeByte_of_ofIndex : ∀ {c : Nat} {p : TargetPin}, TargetPin.ofIndex c = some p → p.routeByte = c - 1
  | 1, _, rfl => rfl
  | 2, _, rfl => rfl
  | 3, _, rfl => rfl
  | 4, _, rfl => rfl

/-- The first four codes are those of the regular pins, each the number of its route byte. -/
theorem GPIOPin.exists_regular : ∀ {c : Nat}, c < 4 → ∃ p, GPIOPin.ofCode c = some (.regular p) ∧ p.routeByte = c
  | 0, _ => ⟨.io1, rfl, rfl⟩
  | 1, _ => ⟨.io2, rfl, rfl⟩
  | 2, _ => ⟨.io3, rfl, rfl⟩
  | 3, _ => ⟨.io4, rfl, rfl⟩

/-- The next three are those of the special pins, in the order of their index. -/
theorem GPIOPin.exists_special : ∀ {k : Nat}, k < 3 → ∃ q, GPIOPin.ofCode (4 + k) = some (.special q) ∧ q.index = k
  | 0, _ => ⟨.nRST, rfl, rfl⟩
  | 1, _ => ⟨.pdid, rfl, rfl⟩
  | 2, _ => ⟨.pdic, rfl, rfl⟩

/-- The GPIO pin of code i is the numbered pin of index i + 1 (R89). -/
theorem GPIOPin.ofCode_of_ofIndex_succ : ∀ {i : Nat} {p : TargetPin}, TargetPin.ofIndex (i + 1) = some p →
    GPIOPin.ofCode i = some (.regular p)
  | 0, _, rfl => rfl
  | 1, _, rfl => rfl
  | 2, _, rfl => rfl
  | 3, _, rfl => rfl

theorem GPIOState.exists_ofCode : ∀ {c : Nat}, c < 3 →
    ∃ st, GPIOState.ofCode c = some st ∧ (st == .high) = (c == 1) ∧ (st = .disabled ↔ c = 2)
  | 0, _ => ⟨.low, rfl, rfl, by decide⟩
  | 1, _ => ⟨.high, rfl, rfl, by decide⟩
  | 2, _ => ⟨.disabled, rfl, rfl, by decide⟩

theorem Channel.exists_ofCode : ∀ {c : Nat}, c < 2 → ∃ ch, Channel.ofCode c = some ch ∧ ch.bit = c
  | 0, _ => ⟨.a, rfl, rfl⟩
  | 1, _ => ⟨.b, rfl, rfl⟩

end Sys2Proof
end

section
/-! GPIO bits of IORoute (spec/42_target_io.md R122 to R124): what a write of a pin's state leaves in its byte, and how the pin
reads then. -/

namespace Sys2Proof.Machine

theorem byteAt_of_getElem? {bs : List Byte} {k : Nat} {b : Byte} (h : bs[k]? = some b) : byteAt bs k = b := by
  simp [byteAt, h]

/-- A bit set in a byte, bit by bit. -/
theorem or_mask_getLsbD (b : Byte) (k : Nat) {j : Nat} (hj : j < 8) :
    (b ||| mask k 1).getLsbD j = if j = k then true else b.getLsbD j := by
  rw [BitVec.getLsbD_or, mask_getLsbD]
  by_cases h : j = k
  · have hk : k < 8 := h ▸ hj
    simp [h, hk]
  · have hout : (decide (k ≤ j) && decide (j < k + 1)) = false := by
      simp only [Bool.and_eq_false_iff, decide_eq_false_iff_not]
      omega
    rw [Bool.and_assoc, hout, Bool.and_false, Bool.or_false, if_neg h]

theorem specialGpio_disabled (b : Byte) (q : SpecialPin) : specialGpio b q .disabled = putBit b (2 * q.index) false := rfl

theorem specialGpio_of_ne_disabled (b : Byte) (q : SpecialPin) {st : GPIOState} (hst : st ≠ .disabled) :
    specialGpio b q st = setbits (b ||| mask (2 * q.index) 1) (2 * q.index + 1) 1 (bitOf (st == .high)) := by
  rw [specialGpio, if_neg (by simpa using hst), one_shiftLeft_eq_mask]

/-- Byte 6 after a write of special pin q, bit by bit (R123). -/
theorem specialGpio_getLsbD (b : Byte) (q : SpecialPin) (st : GPIOState) {j : Nat} (hj : j < 8) :
    (specialGpio b q st).getLsbD j =
      if j = 2 * q.index then st != .disabled
      else if j = 2 * q.index + 1 ∧ st ≠ .disabled then st == .high else b.getLsbD j := by
  by_cases hst : st = .disabled
  · subst hst
    rw [specialGpio_disabled, putBit_getLsbD _ _ _ _ hj]
    simp
  · rw [specialGpio_of_ne_disabled b q hst, setbits_bitReplaced _ _ _ j hj, or_mask_getLsbD b _ hj]
    by_cases hen : j = 2 * q.index
    · simp [hen, hst]
    · simp [hen, hst]

/-- A special pin reads as the state written to it (R123, R124). -/
theorem gpioStateIn_specialGpio (p : Params) {bs : List Byte} (hlen : 6 < bs.length) (q : SpecialPin) (st : GPIOState) :
    gpioStateIn p (bs.set 6 (specialGpio (byteAt bs 6) q st)) (.special q) = st := by
  have hq : 2 * q.index + 1 < 8 := by cases q <;> decide
  rw [gpioStateIn, byteAt_set bs hlen, if_pos rfl, specialGpio_getLsbD _ q st (by omega), specialGpio_getLsbD _ q st hq]
  cases st <;> simp [gpioStateOf]

/-- A GPIO-enabled regular pin reads High once it has been set High (R122, R124). -/
theorem gpioStateIn_routeGpio_high (b : Board) {bs : List Byte} (t : TargetPin) (hlen : t.routeByte < bs.length) {v : Byte}
    (hv : v.getLsbD b.params.gpioEnBit = true) :
    gpioStateIn b.params (bs.set t.routeByte (routeGpio b.params v .high)) (.regular t) = .high := by
  have hbits : BitReplaced v b.params.gpioOutBit true (routeGpio b.params v .high) := setbits_bitReplaced v _ true
  have hen : (routeGpio b.params v .high).getLsbD b.params.gpioEnBit = true := by
    rw [hbits _ b.params.gpioEnBit.isLt, if_neg b.gpioBits_ne, hv]
  have hout : (routeGpio b.params v .high).getLsbD b.params.gpioOutBit = true := by
    rw [hbits _ b.params.gpioOutBit.isLt, if_pos rfl]
  simp [gpioStateIn, gpioStateOf, byteAt_set bs hlen, hen, hout]

end Sys2Proof.Machine
end

section
/-! The shapes of the operations on IORoute (spec/42_target_io.md): past its checks each reads the whole register and then either
answers from the bytes read or writes them back edited (R103). -/

namespace Sys2Proof.Machine

/-- One READ of IORoute, then what `edit` makes of the bytes read, then no result. -/
def routeEdit (edit : List Byte → Act) (s : State) (pc : Nat) : Act :=
  match pc with
  | 0 => .read 55 s.cfg.params.ioRouteLen
  | 1 => withBuf s edit
  | _ => .ret .nothing

/-- One READ of IORoute, then the answer the bytes read give. -/
def routeQuery (answer : List Byte → Result) (s : State) (pc : Nat) : Act :=
  match pc with
  | 0 => .read 55 s.cfg.params.ioRouteLen
  | _ => withBuf s fun buf => .ret (answer buf)

theorem routeEdit_one {u : State} {bs : List Byte} (h : u.buf = some bs) (edit : List Byte → Act) :
    routeEdit edit u 1 = edit bs := by
  simp [routeEdit, withBuf, h]

theorem routeQuery_one {u : State} {bs : List Byte} (h : u.buf = some bs) (answer : List Byte → Result) :
    routeQuery answer u 1 = .ret (answer bs) := by
  simp [routeQuery, withBuf, h]

theorem allowed_of_true {ok : Bool} (h : ok = true) (args : List Nat) (k : Act) : allowed ok args k = k := by
  rw [h, allowed, if_pos rfl]

theorem allowed_of_false {ok : Bool} (h : ok = false) (args : List Nat) (k : Act) :
    allowed ok args k = .raise (.invalidParameter args) := by
  rw [h, allowed, if_neg Bool.false_ne_true]

/-- Request i, executed in s, runs as `shape`: its body's checks pass there, and go on passing while board and profile stay. -/
structure RunsAs (i : Instr) (s : State) (body shape : State → Nat → Act) : Prop where
  runs : exec i s = request i body s
  plain : Instr.plain i = true
  passes : ∀ u pc, u.cfg = s.cfg → u.caps = s.caps → body u pc = shape u pc

section
variable {i : Instr} {s : State} {body shape : State → Nat → Act} (hs : s.Serves 55 s.ioRoute)
include hs

/-- The first primitive of either shape. -/
theorem RunsAs.reads (hr : RunsAs i s body shape) (h0 : ∀ u, shape u 0 = .read 55 u.cfg.params.ioRouteLen) :
    body (s.accept i) 0 = .read 55 s.ioRoute.length := by
  rw [hr.passes (s.accept i) 0 rfl rfl, h0, hs.routeWidth]
  rfl

theorem RunsAs.failsWithItsRead (hr : RunsAs i s body shape) (h0 : ∀ u, shape u 0 = .read 55 u.cfg.params.ioRouteLen) :
    FailsWithItsRead i s 55 s.ioRoute.length :=
  failsWithItsRead_of hr.runs hs.idle hr.plain hs.admitted (hr.reads hs h0)

section
variable {answer : List Byte → Result}

theorem RunsAs.query_completes (hr : RunsAs i s body (routeQuery answer)) (hl : s.linkFails 0 = false) :
    ∃ t, exec i s = .next t ∧ t.link = s.link.skip 1 ∧
      t.agrees (s.finished (answer s.ioRoute) [.read 55 s.ioRoute.length (some s.ioRoute)]) :=
  getter_completes_drawing hr.runs hs.idle hs.admitted hl (hr.reads hs fun _ => rfl)
    ((hr.passes (s.afterRead i 55 _) 1 rfl rfl).trans (routeQuery_one (afterRead_buf hs.register i _) answer))

/-- The outcomes of a getter of IORoute (R100, R102). -/
theorem RunsAs.query_outcomes (hr : RunsAs i s body (routeQuery answer)) :
    (s.linkFails 0 = false → ∃ t, exec i s = .next t ∧
      t.agrees (s.finished (answer s.ioRoute) [.read 55 s.ioRoute.length (some s.ioRoute)])) ∧
    FailsWithItsRead i s 55 s.ioRoute.length :=
  ⟨fun hl => (hr.query_completes hs hl).imp fun _ h => ⟨h.1, h.2.2⟩, hr.failsWithItsRead hs fun _ => rfl⟩

end

section
variable {edit : List Byte → Act} (hr : RunsAs i s body (routeEdit edit))
include hr

theorem RunsAs.edits : body (s.afterRead i 55 s.ioRoute.length) 1 = edit s.ioRoute :=
  (hr.passes (s.afterRead i 55 _) 1 rfl rfl).trans (routeEdit_one (afterRead_buf hs.register i _) edit)

/-- The bytes read can make a setter raise an error: no WRITE then (R212). -/
theorem RunsAs.edit_raises {e : OpError} (he : edit s.ioRoute = .raise e) (hl : s.linkFails 0 = false) :
    ∃ t, exec i s = .next t ∧ t.agrees (s.failed e [.read 55 s.ioRoute.length (some s.ioRoute)]) :=
  read_raises hr.runs hs.idle hr.plain hs.admitted hl (hr.reads hs fun _ => rfl) ((hr.edits hs).trans he)

variable {v : List Byte} (he : edit s.ioRoute = .write 55 v) (hv : v.length = s.ioRoute.length)
include he hv

theorem RunsAs.edit_completes (hl : s.linkUp 2) :
    ∃ t, exec i s = .next t ∧ t.link = s.link.skip 2 ∧ t.agrees (State.finished { s with ioRoute := v } .nothing
      [.read 55 s.ioRoute.length (some s.ioRoute), .write 55 v true]) :=
  setter_completes_drawing hr.runs hs.idle hs.register hs.admitted hv hl (hr.reads hs fun _ => rfl)
    ((hr.edits hs).trans he) fun t hcfg _ hcaps => hr.passes t 2 hcfg hcaps

/-- The outcomes of a setter of IORoute that writes v back (R102, R103). -/
theorem RunsAs.edit_outcomes :
    (s.linkUp 2 → ∃ t, exec i s = .next t ∧ t.agrees (State.finished { s with ioRoute := v } .nothing
      [.read 55 s.ioRoute.length (some s.ioRoute), .write 55 v true])) ∧
    FailsWithItsRead i s 55 s.ioRoute.length ∧ FailsWithItsWrite i s 55 s.ioRoute.length s.ioRoute v :=
  ⟨fun hl => (hr.edit_completes hs he hv hl).imp fun _ h => ⟨h.1, h.2.2⟩, hr.failsWithItsRead hs fun _ => rfl,
    failsWithItsWrite_of hr.runs hs.idle hr.plain hs.register hs.admitted hv (hr.reads hs fun _ => rfl)
      ((hr.edits hs).trans he)⟩

end

end

end Sys2Proof.Machine
end

section
/-! Target IO (spec/42_target_io.md R120 to R129): each operation's edit of IORoute or its answer, and its outcomes. -/

namespace Sys2Proof.Machine

/-! The operations past their checks -/

section
variable {s : State}

theorem setIoRoute_runsAs {c mode : Nat} {p : TargetPin} {m : RouteMode} (hp : TargetPin.ofIndex c = some p)
    (hm : RouteMode.ofCode mode = some m) (hlegal : m ∈ s.cfg.params.legalRoute p) :
    RunsAs (.setIoRoute c mode) s (setIoRouteBody c mode)
      (routeEdit fun bs => .write 55 (bs.set p.routeByte (s.cfg.params.routeCode m))) where
  runs := rfl
  plain := rfl
  passes u pc hcfg _ := by
    have hok : (u.cfg.params.legalRoute p).contains m = true := List.contains_iff_mem.2 (hcfg ▸ hlegal)
    rw [← hcfg]
    exact (selector_of_some hp c _).trans ((selector_of_some hm mode _).trans (allowed_of_true hok _ _))

theorem getIoRoute_runsAs {c : Nat} {p : TargetPin} (hp : TargetPin.ofIndex c = some p) :
    RunsAs (.getIoRoute c) s (getIoRouteBody c) (routeQuery fun bs => .byte (byteAt bs p.routeByte)) where
  runs := rfl
  plain := rfl
  passes _ _ _ _ := selector_of_some hp c _

/-- What SET_GPIO_STATE makes of the bytes read for a regular pin (R122). -/
def regularEdit (params : Params) (g : Nat) (p : TargetPin) (st : GPIOState) (bs : List Byte) : Act :=
  if (byteAt bs p.routeByte).getLsbD params.gpioEnBit then
    .write 55 (bs.set p.routeByte (routeGpio params (byteAt bs p.routeByte) st))
  else .raise (.pinModeMismatch g)

theorem regularEdit_of_enabled {params : Params} {bs : List Byte} {p : TargetPin}
    (h : (byteAt bs p.routeByte).getLsbD params.gpioEnBit = true) (g : Nat) (st : GPIOState) :
    regularEdit params g p st bs = .write 55 (bs.set p.routeByte (routeGpio params (byteAt bs p.routeByte) st)) :=
  if_pos h

theorem regularEdit_of_not_enabled {params : Params} {bs : List Byte} {p : TargetPin}
    (h : (byteAt bs p.routeByte).getLsbD params.gpioEnBit = false) (g : Nat) (st : GPIOState) :
    regularEdit params g p st bs = .raise (.pinModeMismatch g) :=
  if_neg (Bool.eq_false_iff.1 h)

section
variable {g state : Nat} {st : GPIOState} (hst : GPIOState.ofCode state = some st)
include hst

theorem setGpioState_regular_runsAs {p : TargetPin} (hg : GPIOPin.ofCode g = some (.regular p)) (hne : st ≠ .disabled) :
    RunsAs (.setGpioState g state) s (setGpioStateBody g state) (routeEdit (regularEdit s.cfg.params g p st)) where
  runs := rfl
  plain := rfl
  passes u pc hcfg _ := by
    rw [← hcfg]
    exact (selector_of_some hg g _).trans ((selector_of_some hst state _).trans (allowed_of_true (bne_iff_ne.2 hne) _ _))

theorem setGpioState_special_runsAs {q : SpecialPin} (hg : GPIOPin.ofCode g = some (.special q)) :
    RunsAs (.setGpioState g state) s (setGpioStateBody g state)
      (routeEdit fun bs => .write 55 (bs.set 6 (specialGpio (byteAt bs 6) q st))) where
  runs := rfl
  plain := rfl
  passes _ _ _ _ := (selector_of_some hg g _).trans (selector_of_some hst state _)

end

theorem getGpioState_runsAs {g : Nat} {pin : GPIOPin} (hg : GPIOPin.ofCode g = some pin) :
    RunsAs (.getGpioState g) s (getGpioStateBody g) (routeQuery fun bs => .gpioState (gpioStateIn s.cfg.params bs pin)) where
  runs := rfl
  plain := rfl
  passes u pc hcfg _ := by
    rw [← hcfg]
    exact selector_of_some hg g _

theorem setPowerState_runsAs (on : Bool) :
    RunsAs (.setPowerState on.toNat) s (setPowerStateBody on.toNat)
      (routeEdit fun bs => .write 55 (bs.set 5 (setbits (byteAt bs 5) 1 1 (bitOf (!on))))) where
  runs := rfl
  plain := rfl
  passes _ _ _ _ := boolArg_toNat on _

theorem getPowerState_runsAs :
    RunsAs .getPowerState s getPowerStateBody (routeQuery fun bs => .bool (!(byteAt bs 5).getLsbD 1)) where
  runs := rfl
  plain := rfl
  passes _ _ _ _ := rfl

theorem setGlitchOutEn_runsAs {c : Nat} {ch : Channel} (hc : Channel.ofCode c = some ch) (on : Bool)
    (hok : (!s.cfg.params.glitchGated || s.capability (·.hasGlitchOutput)) = true) :
    RunsAs (.setGlitchOutEn c on.toNat) s (setGlitchOutEnBody c on.toNat)
      (routeEdit fun bs => .write 55 (bs.set 4 (setbits (byteAt bs 4) ch.bit 1 (bitOf on)))) where
  runs := rfl
  plain := rfl
  passes u pc hcfg hcaps := by
    have hpass : (!u.cfg.params.glitchGated || u.capability (·.hasGlitchOutput)) = true := by
      rw [State.capability, hcfg, hcaps]
      exact hok
    exact (boolArg_toNat on _).trans ((selector_of_some hc c _).trans (allowed_of_true hpass _ _))

theorem getGlitchOutEn_runsAs {c : Nat} {ch : Channel} (hc : Channel.ofCode c = some ch) :
    RunsAs (.getGlitchOutEn c) s (getGlitchOutEnBody c) (routeQuery fun bs => .bool ((byteAt bs 4).getLsbD ch.bit)) where
  runs := rfl
  plain := rfl
  passes _ _ _ _ := selector_of_some hc c _

end

/-! The obligations -/

/-- Settles O27: the edit puts the mode's code at the pin's route byte. -/
theorem setIoRouteReplacesOneByte : Obligations.SetIoRouteReplacesOneByte := by
  intro s c mode hidle hroute
  refine ⟨fun p m hp hm => ⟨fun hlegal => ?legal, fun hillegal => ?illegal⟩, fun hc => ?pin, fun h1 h4 hmode => ?mode⟩
  case legal =>
    have hbyte := TargetPin.routeByte_of_ofIndex hp
    exact (setIoRoute_runsAs hp hm hlegal).edit_outcomes ⟨hidle, hroute, rfl⟩ (by rw [hbyte]) List.length_set
  case illegal =>
    have hno : (s.cfg.params.legalRoute p).contains m = false := by simpa using hillegal
    exact raisesAtOnce_of rfl hidle rfl
      ((selector_of_some hp c _).trans ((selector_of_some hm mode _).trans (allowed_of_false hno _ _)))
  case pin =>
    exact raisesAtOnce_of_selector hidle rfl rfl (TargetPin.ofIndex_eq_none hc) rfl
  case mode =>
    obtain ⟨p, hp⟩ := TargetPin.exists_ofIndex h1 h4
    exact raisesAtOnce_of_selector_selector hidle rfl rfl hp (RouteMode.ofCode_eq_none hmode) rfl

/-- Settles O28: the answer is the pin's route byte of the bytes read. -/
theorem getIoRouteReturnsTheByte : Obligations.GetIoRouteReturnsTheByte := by
  intro s c hidle hroute
  refine ⟨fun h1 h4 => ?inside, fun hc => ?outside⟩
  case inside =>
    obtain ⟨p, hp⟩ := TargetPin.exists_ofIndex h1 h4
    rw [← TargetPin.routeByte_of_ofIndex hp]
    exact (getIoRoute_runsAs hp).query_outcomes ⟨hidle, hroute, rfl⟩
  case outside =>
    exact raisesAtOnce_of_selector hidle rfl rfl (TargetPin.ofIndex_eq_none hc) rfl

/-- Settles O29: past its checks the operation is `regularEdit`, which the GPIO-enabled bit of the byte read decides. -/
theorem setGpioOfARegularPin : Obligations.SetGpioOfARegularPin := by
  intro s i state b hidle hroute hi hb
  have hs : s.Serves 55 s.ioRoute := ⟨hidle, hroute, rfl⟩
  obtain ⟨p, hp, rfl⟩ := GPIOPin.exists_regular hi
  obtain rfl := byteAt_of_getElem? hb
  have hruns : state < 2 → ∃ st, (st == .high) = (state == 1) ∧ RunsAs (.setGpioState p.routeByte state) s
      (setGpioStateBody p.routeByte state) (routeEdit (regularEdit s.cfg.params p.routeByte p st)) := by
    intro hlt
    obtain ⟨st, hst, hhigh, hdis⟩ := GPIOState.exists_ofCode (hlt.trans (by decide : 2 < 3))
    exact ⟨st, hhigh, setGpioState_regular_runsAs hst hp fun h => hlt.ne (hdis.1 h)⟩
  refine ⟨fun hlt hen => ?enabled, fun hlt hen hl => ?mismatch, fun hlt => ?read, ?disabled, fun hgt => ?state,
    fun g hg => ?pin⟩
  case enabled =>
    obtain ⟨st, hhigh, hr⟩ := hruns hlt
    have hout := hr.edit_outcomes hs (regularEdit_of_enabled hen _ st) List.length_set
    exact ⟨_, hhigh ▸ setbits_bitReplaced _ _ (st == .high), hout.1, hout.2.2⟩
  case mismatch =>
    obtain ⟨st, -, hr⟩ := hruns hlt
    exact hr.edit_raises hs (regularEdit_of_not_enabled hen _ st) hl
  case read =>
    obtain ⟨_, -, hr⟩ := hruns hlt
    exact hr.failsWithItsRead hs fun _ => rfl
  case disabled =>
    rintro rfl
    exact raisesAtOnce_of rfl hidle rfl
      ((selector_of_some hp _ _).trans ((selector_of_some (a := GPIOState.disabled) rfl 2 _).trans (allowed_of_false rfl _ _)))
  case state =>
    exact raisesAtOnce_of_selector_selector hidle rfl rfl hp (GPIOState.ofCode_eq_none hgt) rfl
  case pin =>
    exact raisesAtOnce_of_selector hidle rfl rfl (GPIOPin.ofCode_eq_none hg) rfl

/-- Settles O30: the edit of byte 6 is `specialGpio`, read bit by bit. -/
theorem setGpioOfASpecialPin : Obligations.SetGpioOfASpecialPin := by
  intro s k state b hidle hroute hk hb
  obtain ⟨q, hq, rfl⟩ := GPIOPin.exists_special hk
  obtain rfl := byteAt_of_getElem? hb
  refine ⟨fun hlt => ?inside, fun hgt => ?outside⟩
  case inside =>
    obtain ⟨st, hst, hhigh, hdis⟩ := GPIOState.exists_ofCode hlt
    have hne : (st != .disabled) = (state != 2) := by
      rw [Bool.eq_iff_iff, bne_iff_ne, bne_iff_ne, ne_eq, hdis]
    have hr := setGpioState_special_runsAs (s := s) hst hq
    refine ⟨_, fun j hj => ?_, hr.edit_outcomes ⟨hidle, hroute, rfl⟩ rfl List.length_set⟩
    simp only [specialGpio_getLsbD _ q st hj, hhigh, hne, ne_eq, hdis]
  case outside =>
    exact raisesAtOnce_of_selector_selector hidle rfl rfl hq (GPIOState.ofCode_eq_none hgt) rfl

/-- Settles O31, by the two kinds of pins: the answer is `gpioStateIn` of the bytes read. -/
theorem getGpioDecodesThePin : Obligations.GetGpioDecodesThePin := by
  intro s g hidle hroute
  have hs : s.Serves 55 s.ioRoute := ⟨hidle, hroute, rfl⟩
  refine ⟨fun hlt => ?inside, fun hgt => raisesAtOnce_of_selector hidle rfl rfl (GPIOPin.ofCode_eq_none hgt) rfl⟩
  by_cases hregular : g < 4
  · obtain ⟨p, hp, rfl⟩ := GPIOPin.exists_regular hregular
    simp only [if_pos hregular]
    exact (getGpioState_runsAs hp).query_outcomes hs
  · obtain ⟨k, rfl⟩ := Nat.exists_eq_add_of_le (Nat.le_of_not_lt hregular)
    obtain ⟨q, hq, rfl⟩ := GPIOPin.exists_special (k := k) (by omega)
    simp only [if_neg hregular, Nat.add_sub_cancel_left]
    exact (getGpioState_runsAs hq).query_outcomes hs

/-- Settles O33: the setter's edit is bit 1 of byte 5, inverted, and the getter answers from the same bit. -/
theorem powerIsBit1OfByte5Inverted : Obligations.PowerIsBit1OfByte5Inverted := by
  intro s on b hidle hroute hb
  have hs : s.Serves 55 s.ioRoute := ⟨hidle, hroute, rfl⟩
  obtain rfl := byteAt_of_getElem? hb
  exact ⟨⟨_, setbits_bitReplaced _ 1 (!on), (setPowerState_runsAs on).edit_outcomes hs rfl List.length_set⟩,
    getPowerState_runsAs.query_outcomes hs⟩

/-- Settles O34: the setter's edit is the channel's bit of byte 4, where the gate lets it pass, and the getter answers from the
same bit. -/
theorem glitchEnablesAreBitsOfByte4 : Obligations.GlitchEnablesAreBitsOfByte4 := by
  intro s c on b hidle hroute hb
  have hs : s.Serves 55 s.ioRoute := ⟨hidle, hroute, rfl⟩
  obtain rfl := byteAt_of_getElem? hb
  refine ⟨fun hlt hopen => ?set, fun hlt hgated caps hcaps hno => ?gated, fun hlt => ?get,
    fun hgt => ⟨?setOutside, ?getOutside⟩⟩
  case set =>
    obtain ⟨ch, hch, rfl⟩ := Channel.exists_ofCode hlt
    have hok : (!s.cfg.params.glitchGated || s.capability (·.hasGlitchOutput)) = true := by
      obtain hungated | ⟨caps, hcaps, hout⟩ := hopen
      · simp [hungated]
      · simp [State.capability, hcaps, hout]
    exact ⟨_, setbits_bitReplaced _ ch.bit on, (setGlitchOutEn_runsAs hch on hok).edit_outcomes hs rfl List.length_set⟩
  case gated =>
    obtain ⟨ch, hch, -⟩ := Channel.exists_ofCode hlt
    have hshut : (!s.cfg.params.glitchGated || s.capability (·.hasGlitchOutput)) = false := by
      simp [State.capability, hgated, hcaps, hno]
    exact raisesAtOnce_of rfl hidle rfl
      ((boolArg_toNat on _).trans ((selector_of_some hch c _).trans (allowed_of_false hshut _ _)))
  case get =>
    obtain ⟨ch, hch, rfl⟩ := Channel.exists_ofCode hlt
    exact (getGlitchOutEn_runsAs hch).query_outcomes hs
  case setOutside =>
    exact raisesAtOnce_of_boolArg_selector hidle rfl rfl on.toNat_le (Channel.ofCode_eq_none hgt) rfl
  case getOutside =>
    exact raisesAtOnce_of_selector hidle rfl rfl (Channel.ofCode_eq_none hgt) rfl

end Sys2Proof.Machine
end

section
/-! Sequences of GPIO operations (spec/42_target_io.md R125): each leaves IORoute at its width, with the bytes the next one
reads. -/

namespace Sys2Proof.Machine

/-- Idle on board b, with the bytes bs in IORoute, at its width, and a transport that completes the next n commands. -/
structure State.RouteReady (s : State) (b : Board) (bs : List Byte) (n : Nat) : Prop where
  idle : s.phase = .idle
  board : s.cfg = b
  route : s.ioRoute = bs
  width : bs.length = b.params.ioRouteLen
  link : s.linkUp n

section
variable {s : State} {b : Board} {bs : List Byte} {n : Nat}

theorem State.RouteReady.serves (h : s.RouteReady b bs n) : s.Serves 55 s.ioRoute := by
  obtain ⟨hidle, rfl, rfl, hwidth, -⟩ := h
  exact ⟨hidle, hwidth, rfl⟩

/-- R36: the register holds at least eight bytes. -/
theorem State.RouteReady.eight_le (h : s.RouteReady b bs n) : 8 ≤ bs.length :=
  b.ioRouteLen_ge.trans_eq h.width.symm

/-- A setter leaves the block ready with what it wrote, and two commands fewer. -/
theorem RunsAs.edit_ready {i : Instr} {body : State → Nat → Act} {edit : List Byte → Act} {v : List Byte}
    (hr : RunsAs i s body (routeEdit edit)) (h : s.RouteReady b bs (2 + n)) (he : edit bs = .write 55 v)
    (hv : v.length = bs.length) : ∃ t, exec i s = .next t ∧ t.RouteReady b v n := by
  have hs := h.serves
  obtain ⟨-, rfl, rfl, hwidth, hl⟩ := h
  obtain ⟨t, hx, hlink, hagrees⟩ := hr.edit_completes hs he hv fun k hk => hl k (by omega)
  exact ⟨t, hx, hagrees.field State.phase, hagrees.field State.cfg, hagrees.field State.ioRoute, hv.trans hwidth,
    linkUp_of_skip hlink hl⟩

theorem setIoRoute_ready {c mode : Nat} {p : TargetPin} {m : RouteMode} (h : s.RouteReady b bs (2 + n))
    (hp : TargetPin.ofIndex c = some p) (hm : RouteMode.ofCode mode = some m) (hlegal : m ∈ b.params.legalRoute p) :
    ∃ t, exec (.setIoRoute c mode) s = .next t ∧ t.RouteReady b (bs.set p.routeByte (b.params.routeCode m)) n := by
  obtain rfl := h.board
  exact (setIoRoute_runsAs hp hm hlegal).edit_ready h rfl List.length_set

theorem setGpioState_regular_ready {g state : Nat} {p : TargetPin} {st : GPIOState} (h : s.RouteReady b bs (2 + n))
    (hp : GPIOPin.ofCode g = some (.regular p)) (hst : GPIOState.ofCode state = some st) (hne : st ≠ .disabled)
    (hen : (byteAt bs p.routeByte).getLsbD b.params.gpioEnBit = true) :
    ∃ t, exec (.setGpioState g state) s = .next t ∧
      t.RouteReady b (bs.set p.routeByte (routeGpio b.params (byteAt bs p.routeByte) st)) n := by
  obtain rfl := h.board
  exact (setGpioState_regular_runsAs hst hp hne).edit_ready h (regularEdit_of_enabled hen g st) List.length_set

theorem setGpioState_special_ready {g state : Nat} {q : SpecialPin} {st : GPIOState} (h : s.RouteReady b bs (2 + n))
    (hq : GPIOPin.ofCode g = some (.special q)) (hst : GPIOState.ofCode state = some st) :
    ∃ t, exec (.setGpioState g state) s = .next t ∧ t.RouteReady b (bs.set 6 (specialGpio (byteAt bs 6) q st)) n :=
  (setGpioState_special_runsAs hst hq).edit_ready h rfl List.length_set

theorem getGpioState_reports {g : Nat} {pin : GPIOPin} (h : s.RouteReady b bs 1) (hg : GPIOPin.ofCode g = some pin) :
    ∃ t, exec (.getGpioState g) s = .next t ∧ t.report = .ok (.gpioState (gpioStateIn b.params bs pin)) ∧ t.ioRoute = bs := by
  have hs := h.serves
  obtain ⟨-, rfl, rfl, -, hl⟩ := h
  obtain ⟨t, hx, -, hagrees⟩ := (getGpioState_runsAs hg).query_completes hs (hl 0 Nat.one_pos)
  exact ⟨t, hx, report_of_agrees_finished hagrees, hagrees.field State.ioRoute⟩

/-- A special pin reads back the state set, and every other bit of byte 6 is as before. -/
theorem setGpioState_getGpioState_special {g state : Nat} {q : SpecialPin} {st : GPIOState} (h : s.RouteReady b bs 3)
    (hq : GPIOPin.ofCode g = some (.special q)) (hst : GPIOState.ofCode state = some st) :
    ∃ t, execAll [.setGpioState g state, .getGpioState g] s = .next t ∧ t.report = .ok (.gpioState st) ∧
      ∀ j, j < 8 → j ≠ 2 * q.index → j ≠ 2 * q.index + 1 →
        (byteAt t.ioRoute 6).getLsbD j = (byteAt bs 6).getLsbD j := by
  have hlen : 6 < bs.length := Nat.lt_of_lt_of_le (by decide) h.eight_le
  obtain ⟨t, hset, ht⟩ := setGpioState_special_ready (n := 1) h hq hst
  obtain ⟨u, hget, hreport, hbytes⟩ := getGpioState_reports ht hq
  rw [gpioStateIn_specialGpio _ hlen] at hreport
  refine ⟨u, (execAll_cons hset).trans (execAll_cons hget), hreport, fun j hj hen hlevel => ?_⟩
  rw [hbytes, byteAt_set bs hlen, if_pos rfl, specialGpio_getLsbD _ q st hj, if_neg hen, if_neg (by simp [hlevel])]

/-- A regular pin put in GPIO-enabled mode and set High reads High. -/
theorem setIoRoute_setGpioState_getGpioState {i : Nat} {p : TargetPin} (h : s.RouteReady b bs 5)
    (hp : TargetPin.ofIndex (i + 1) = some p) (hg : GPIOPin.ofCode i = some (.regular p))
    (hlegal : .gpioEnabled ∈ b.params.legalRoute p) :
    ∃ t, execAll [.setIoRoute (i + 1) 7, .setGpioState i 1, .getGpioState i] s = .next t ∧
      t.report = .ok (.gpioState .high) := by
  have hlen : p.routeByte < bs.length := Nat.lt_of_lt_of_le (by cases p <;> decide) h.eight_le
  obtain ⟨t, hroute, ht⟩ := setIoRoute_ready (n := 3) (mode := 7) h hp rfl hlegal
  have hcode : byteAt (bs.set p.routeByte (b.params.routeCode .gpioEnabled)) p.routeByte = b.params.routeCode .gpioEnabled :=
    (byteAt_set bs hlen _ _).trans (if_pos rfl)
  obtain ⟨u, hset, hu⟩ := setGpioState_regular_ready (n := 1) (state := 1) (st := .high) ht hg rfl (by decide)
    (by rw [hcode]; exact b.gpioEnabled_bit)
  obtain ⟨x, hget, hreport, -⟩ := getGpioState_reports hu hg
  rw [hcode, gpioStateIn_routeGpio_high b p (by rwa [List.length_set]) b.gpioEnabled_bit] at hreport
  exact ⟨x, (execAll_cons hroute).trans ((execAll_cons hset).trans (execAll_cons hget)), hreport⟩

end

/-- Settles O32: each operation leaves IORoute for the next, whose reading of the bytes is that of the byte written. -/
theorem specialPinsAreIndependent : Obligations.SpecialPinsAreIndependent := by
  intro s hidle hroute
  refine ⟨fun k state st hk hst hl => ?special, fun i p _ hp hlegal hl => ?regular⟩
  case special =>
    obtain ⟨q, hq, rfl⟩ := GPIOPin.exists_special hk
    obtain ⟨t, hx, hreport, hbits⟩ := setGpioState_getGpioState_special ⟨hidle, rfl, rfl, hroute, hl⟩ hq hst
    exact ⟨t, hx, hreport, fun j hj => hbits j (hj.trans (by decide : 6 < 8))⟩
  case regular =>
    exact setIoRoute_setGpioState_getGpioState ⟨hidle, rfl, rfl, hroute, hl⟩ hp (GPIOPin.ofCode_of_ofIndex_succ hp) hlegal

end Sys2Proof.Machine
end

section
/-! Decoding a field by an enumeration's codes (spec/10_state.md R29), for every enumeration with distinct codes. -/

namespace Sys2Proof.Machine

/-- A field as a number: the byte divided, then reduced to the field's width. -/
theorem getbits_toNat (v : Byte) {lo w : Nat} (hw : w ≤ 8) : (getbits v lo w).toNat = v.toNat / 2 ^ lo % 2 ^ w := by
  have hfits : 2 ^ w - 1 < 2 ^ 8 := (Nat.sub_lt (Nat.two_pow_pos w) Nat.one_pos).trans_le
    (Nat.pow_le_pow_right Nat.two_pos hw)
  have hmask : (mask 0 w).toNat = 2 ^ w - 1 := by
    rw [mask, BitVec.shiftLeft_zero, BitVec.toNat_ofNat, Nat.mod_eq_of_lt hfits]
  rw [getbits, BitVec.toNat_and, BitVec.toNat_ushiftRight, hmask, Nat.and_two_pow_sub_one_eq_mod,
    Nat.shiftRight_eq_div_pow]

section
variable {α : Type} {members : List α} {w : Nat} {code : α → BitVec w} {v : Byte} {lo : Nat} (hw : w ≤ 8)
include hw

/-- A field that holds a member's code, bit by bit, decodes as that member. -/
theorem memberOf_getbits_eq_some (hcodes : code.Injective) {m : α} (hm : m ∈ members)
    (h : ∀ j, j < w → (code m).getLsbD j = v.getLsbD (lo + j)) :
    memberOf members (fun x => (code x).setWidth 8) (getbits v lo w) = some m := by
  have hfield : (code m).setWidth 8 = getbits v lo w := (code_eq_getbits_iff hw _ v lo).2 h
  exact memberOf_eq_some hm hfield fun _ _ hx => hcodes (setWidth_inj hw (hx.trans hfield.symm))

/-- A field that differs from each member's code in some bit decodes as none. -/
theorem memberOf_getbits_eq_none (h : ∀ m, ∃ j, j < w ∧ (code m).getLsbD j ≠ v.getLsbD (lo + j)) :
    memberOf members (fun x => (code x).setWidth 8) (getbits v lo w) = none := by
  refine memberOf_eq_none fun m _ heq => ?_
  obtain ⟨j, hj, hbit⟩ := h m
  exact hbit ((code_eq_getbits_iff hw _ v lo).1 heq j hj)

end

end Sys2Proof.Machine
end

section
/-! The shapes of the operations on a one-byte configuration register: past its checks each reads the byte and then either
answers from it or writes it back edited (spec/40_transport_rmw.md R103). -/

namespace Sys2Proof.Machine

/-- One READ of register a, one WRITE of the byte read as `edit` makes it, then no result. -/
def byteEdit (a : Nat) (edit : Byte → Byte) (u : State) (pc : Nat) : Act :=
  match pc with
  | 0 => .read a 1
  | 1 => withBuf u fun buf => .write a [edit (byteAt buf 0)]
  | _ => .ret .nothing

/-- One READ of register a, then the answer its byte gives. -/
def byteQuery (a : Nat) (answer : Byte → Result) (u : State) (pc : Nat) : Act :=
  match pc with
  | 0 => .read a 1
  | _ => withBuf u fun buf => .ret (answer (byteAt buf 0))

theorem byteEdit_one {u : State} {v : Byte} (h : u.buf = some [v]) (a : Nat) (edit : Byte → Byte) :
    byteEdit a edit u 1 = .write a [edit v] := by
  simp [byteEdit, withBuf, h, byteAt]

theorem byteQuery_one {u : State} {v : Byte} (h : u.buf = some [v]) (a : Nat) (answer : Byte → Result) :
    byteQuery a answer u 1 = .ret (answer v) := by
  simp [byteQuery, withBuf, h, byteAt]

section
variable {i : Instr} {s : State} {body : State → Nat → Act} {a : Nat} {v : Byte} (hidle : s.phase = .idle)
  (hc : s.configRegister a = some [v]) (ha : admitted s.cfg.params a 1 = true)
include hidle hc ha

/-- The outcomes of a getter of a one-byte register (R100, R102). -/
theorem RunsAs.byteQuery_outcomes {answer : Byte → Result} (hr : RunsAs i s body (byteQuery a answer)) :
    (s.linkFails 0 = false → ∃ t, exec i s = .next t ∧
      t.agrees (s.finished (answer v) [.read a 1 (some [v])])) ∧
    FailsWithItsRead i s a 1 := by
  have hread : body (s.accept i) 0 = .read a 1 := hr.passes _ 0 rfl rfl
  have hanswer : body (s.afterRead i a 1) 1 = .ret (answer v) :=
    (hr.passes (s.afterRead i a 1) 1 rfl rfl).trans (byteQuery_one (afterRead_buf hc i 1) a answer)
  refine ⟨fun hl => ?_, failsWithItsRead_of hr.runs hidle hr.plain ha hread⟩
  simpa only [response_of_configRegister hc] using getter_completes hr.runs hidle ha hl hread hanswer

/-- The outcomes of a setter of a one-byte register (R102, R103). -/
theorem RunsAs.byteEdit_outcomes {edit : Byte → Byte} (hr : RunsAs i s body (byteEdit a edit)) :
    (s.linkUp 2 → ∃ t, exec i s = .next t ∧
      t.agrees ((s.withConfig a [edit v]).finished .nothing [.read a 1 (some [v]), .write a [edit v] true])) ∧
    FailsWithItsRead i s a 1 ∧ FailsWithItsWrite i s a 1 [v] [edit v] := by
  have hread : body (s.accept i) 0 = .read a 1 := hr.passes _ 0 rfl rfl
  have hwrite : body (s.afterRead i a 1) 1 = .write a [edit v] :=
    (hr.passes (s.afterRead i a 1) 1 rfl rfl).trans (byteEdit_one (afterRead_buf hc i 1) a edit)
  exact ⟨fun hl => setter_completes hr.runs hidle hc ha rfl hl hread hwrite fun t hcfg _ hcaps => hr.passes t 2 hcfg hcaps,
    failsWithItsRead_of hr.runs hidle hr.plain ha hread,
    failsWithItsWrite_of hr.runs hidle hr.plain hc ha rfl hread hwrite⟩

end

end Sys2Proof.Machine
end

section
/-! Clock routing and the front-panel trigger output (spec/43_clock_routing.md R140 to R145): what the gates of the profile let
pass, each operation's edit of its register or its answer, and its outcomes. -/

namespace Sys2Proof.Machine

/-! The gates -/

theorem capability_of_caps {s : State} {caps : Profile} (h : s.caps = some caps) (flag : Profile → Bool) :
    s.capability flag = flag caps := by
  rw [State.capability, h]

theorem capability_congr {s u : State} (h : u.caps = s.caps) (flag : Profile → Bool) :
    u.capability flag = s.capability flag := by
  rw [State.capability, State.capability, h]

/-- R140: the sources a profile shuts out. -/
theorem clockSourceAllowed_eq_false_iff {s : State} {caps : Profile} (h : s.caps = some caps) (src : ClockSource) :
    clockSourceAllowed s src = false ↔ (src = .pllInput ∧ caps.hasPLL = false) ∨
      ((src = .frontPanelA ∨ src = .frontPanelB) ∧ caps.hasFrontPanelPins = false) := by
  cases src <;> simp [clockSourceAllowed, capability_of_caps h]

theorem clockSourceAllowed_congr {s u : State} (h : u.caps = s.caps) (src : ClockSource) :
    clockSourceAllowed u src = clockSourceAllowed s src := by
  cases src <;> simp only [clockSourceAllowed, capability_congr h]

/-- R142: the one mode a profile shuts out, where it is gated. -/
theorem clockOutAllowed_eq_false_iff {s : State} {caps : Profile} (h : s.caps = some caps) (m : TargetClockOut) :
    clockOutAllowed s m = false ↔
      s.cfg.params.glitchGated = true ∧ m = .glitchModule ∧ caps.hasGlitchOutput = false := by
  simp [clockOutAllowed, capability_of_caps h, and_assoc]

theorem clockOutAllowed_congr {s u : State} (hcfg : u.cfg = s.cfg) (hcaps : u.caps = s.caps) (m : TargetClockOut) :
    clockOutAllowed u m = clockOutAllowed s m := by
  rw [clockOutAllowed, clockOutAllowed, hcfg, capability_congr hcaps]

/-! The ExternalClock fields -/

theorem decodeClockSource_getbits_of_code (b : Board) {v : Byte} {m : ClockSource}
    (h : ∀ j, j < 3 → (b.params.clkSrcCode m).getLsbD j = v.getLsbD j) :
    decodeClockSource b.params (getbits v 0 3) = .clockSource m := by
  rw [decodeClockSource, memberOf_getbits_eq_some (m := m) (by decide) (fun _ _ => b.clkSrcCode_inj)
    (by cases m <;> decide) (by simpa only [Nat.zero_add] using h)]

theorem decodeClockSource_getbits_of_no_code {p : Params} {v : Byte}
    (h : ∀ m, ∃ j, j < 3 ∧ (p.clkSrcCode m).getLsbD j ≠ v.getLsbD j) :
    decodeClockSource p (getbits v 0 3) = .unrecognised (v.toNat % 8) := by
  rw [decodeClockSource, memberOf_getbits_eq_none (by decide) (by simpa only [Nat.zero_add] using h)]
  simp [getbits_toNat v (lo := 0) (w := 3) (by decide)]

theorem decodeClockOut_getbits_of_code (b : Board) {v : Byte} {m : TargetClockOut}
    (h : ∀ j, j < 2 → (b.params.clkOutCode m).getLsbD j = v.getLsbD (5 + j)) :
    decodeClockOut b.params (getbits v 5 2) = .targetClockOut m := by
  rw [decodeClockOut, memberOf_getbits_eq_some (m := m) (by decide) (fun _ _ => b.clkOutCode_inj)
    (by cases m <;> decide) h]

theorem decodeClockOut_getbits_of_no_code {p : Params} {v : Byte}
    (h : ∀ m, ∃ j, j < 2 ∧ (p.clkOutCode m).getLsbD j ≠ v.getLsbD (5 + j)) :
    decodeClockOut p (getbits v 5 2) = .unrecognised (v.toNat / 32 % 4) := by
  rw [decodeClockOut, memberOf_getbits_eq_none (by decide) h]
  simp [getbits_toNat v (lo := 5) (w := 2) (by decide)]

/-! The operations past their checks -/

section
variable {s : State}

theorem setClockSource_runsAs {source : Nat} {src : ClockSource} (hsrc : ClockSource.ofCode source = some src)
    (hok : clockSourceAllowed s src = true) :
    RunsAs (.setClockSource source) s (setClockSourceBody source)
      (byteEdit 38 fun v => setbits v 0 3 ((s.cfg.params.clkSrcCode src).setWidth 8)) where
  runs := rfl
  plain := rfl
  passes _ _ hcfg hcaps := by
    rw [← hcfg]
    exact (selector_of_some hsrc source _).trans (allowed_of_true ((clockSourceAllowed_congr hcaps src).trans hok) _ _)

theorem getClockSource_runsAs :
    RunsAs .getClockSource s getClockSourceBody
      (byteQuery 38 fun v => decodeClockSource s.cfg.params (getbits v 0 3)) where
  runs := rfl
  plain := rfl
  passes _ _ hcfg _ := by
    rw [← hcfg]
    rfl

theorem setTargetClockOut_runsAs {mode : Nat} {m : TargetClockOut} (hm : TargetClockOut.ofCode mode = some m)
    (hok : clockOutAllowed s m = true) :
    RunsAs (.setTargetClockOut mode) s (setTargetClockOutBody mode)
      (byteEdit 38 fun v => setbits v 5 2 ((s.cfg.params.clkOutCode m).setWidth 8)) where
  runs := rfl
  plain := rfl
  passes u _ hcfg hcaps := by
    have hpass : clockOutAllowed u m = true := (clockOutAllowed_congr hcfg hcaps m).trans hok
    rw [← hcfg]
    exact (selector_of_some hm mode _).trans (allowed_of_true hpass _ _)

theorem getTargetClockOut_runsAs :
    RunsAs .getTargetClockOut s getTargetClockOutBody
      (byteQuery 38 fun v => decodeClockOut s.cfg.params (getbits v 5 2)) where
  runs := rfl
  plain := rfl
  passes _ _ hcfg _ := by
    rw [← hcfg]
    rfl

section
variable (hok : s.capability (·.hasFrontPanelPins) = true)
include hok

theorem setTrigoutFpa_runsAs (on : Bool) :
    RunsAs (.setTrigoutFpa on.toNat) s (setTrigoutFpaBody on.toNat) (byteEdit 40 fun v => setbits v 3 1 (bitOf on)) where
  runs := rfl
  plain := rfl
  passes _ _ _ hcaps := (boolArg_toNat on _).trans (allowed_of_true ((capability_congr hcaps _).trans hok) _ _)

theorem getTrigoutFpa_runsAs :
    RunsAs .getTrigoutFpa s getTrigoutFpaBody (byteQuery 40 fun v => .bool (v.getLsbD 3)) where
  runs := rfl
  plain := rfl
  passes _ _ _ hcaps := allowed_of_true ((capability_congr hcaps _).trans hok) _ _

end

end

/-! The obligations -/

/-- Settles O35: an allowed source's edit is the field of bits 2:0, and a source the profile shuts out fails its check. -/
theorem setClockSourceWritesBits2To0 : Obligations.SetClockSourceWritesBits2To0 := by
  intro s source caps hidle hcaps
  refine ⟨fun src hsrc => ⟨fun hopen => ?allowed, fun hgated => ?gated⟩, fun hgt => ?outside⟩
  case allowed =>
    have hok : clockSourceAllowed s src = true :=
      Bool.eq_true_of_not_eq_false (mt (clockSourceAllowed_eq_false_iff hcaps src).1 hopen)
    exact ⟨_, setbits_fieldReplaced s.extClk _ 0 3, (setClockSource_runsAs hsrc hok).byteEdit_outcomes hidle rfl rfl⟩
  case gated =>
    have hno : clockSourceAllowed s src = false := (clockSourceAllowed_eq_false_iff hcaps src).2 hgated
    exact raisesAtOnce_of rfl hidle rfl ((selector_of_some hsrc source _).trans
      (allowed_of_false ((clockSourceAllowed_congr rfl src).trans hno) _ _))
  case outside =>
    exact raisesAtOnce_of_selector hidle rfl rfl (ClockSource.ofCode_eq_none hgt) rfl

/-- Settles O36: an allowed mode's edit is the field of bits 6:5, and a gated GlitchModule fails its check. -/
theorem setTargetClockOutWritesBits6To5 : Obligations.SetTargetClockOutWritesBits6To5 := by
  intro s mode caps hidle hcaps
  refine ⟨fun m hm => ⟨fun hopen => ?allowed, fun hgated => ?gated⟩, fun hgt => ?outside⟩
  case allowed =>
    have hok : clockOutAllowed s m = true :=
      Bool.eq_true_of_not_eq_false (mt (clockOutAllowed_eq_false_iff hcaps m).1 hopen)
    exact ⟨_, setbits_fieldReplaced s.extClk _ 5 2, (setTargetClockOut_runsAs hm hok).byteEdit_outcomes hidle rfl rfl⟩
  case gated =>
    have hno : clockOutAllowed s m = false := (clockOutAllowed_eq_false_iff hcaps m).2 hgated
    exact raisesAtOnce_of rfl hidle rfl ((selector_of_some hm mode _).trans
      (allowed_of_false ((clockOutAllowed_congr rfl rfl m).trans hno) _ _))
  case outside =>
    exact raisesAtOnce_of_selector hidle rfl rfl (TargetClockOut.ofCode_eq_none hgt) rfl

/-- Settles O37: each getter answers with its field decoded, and a field decodes as the one member whose code it holds. -/
theorem clockGettersDecodeTheirFields : Obligations.ClockGettersDecodeTheirFields := by
  intro s hidle
  obtain ⟨hsource, hsourceRead⟩ := (getClockSource_runsAs (s := s)).byteQuery_outcomes hidle rfl rfl
  obtain ⟨hout, houtRead⟩ := (getTargetClockOut_runsAs (s := s)).byteQuery_outcomes hidle rfl rfl
  refine ⟨fun hl => ⟨fun m hcode => ?source, fun hno => ?noSource, fun m hcode => ?out, fun hno => ?noOut⟩,
    hsourceRead, houtRead⟩
  case source => exact decodeClockSource_getbits_of_code s.cfg hcode ▸ hsource hl
  case noSource => exact decodeClockSource_getbits_of_no_code hno ▸ hsource hl
  case out => exact decodeClockOut_getbits_of_code s.cfg hcode ▸ hout hl
  case noOut => exact decodeClockOut_getbits_of_no_code hno ▸ hout hl

/-- Settles O38: with front-panel pins setter and getter meet at bit 3 of the byte read; without them both fail their check. -/
theorem trigoutIsBit3OfTriggerModule : Obligations.TrigoutIsBit3OfTriggerModule := by
  intro s on caps hidle hcaps
  have hgate : s.capability (·.hasFrontPanelPins) = caps.hasFrontPanelPins := capability_of_caps hcaps _
  refine ⟨fun hpins => ⟨?set, ?get⟩, fun hnone => ⟨?setGated, ?getGated⟩⟩
  case set =>
    exact ⟨_, setbits_bitReplaced s.trigMod 3 on,
      (setTrigoutFpa_runsAs (hgate.trans hpins) on).byteEdit_outcomes hidle rfl rfl⟩
  case get =>
    exact (getTrigoutFpa_runsAs (hgate.trans hpins)).byteQuery_outcomes hidle rfl rfl
  case setGated =>
    exact raisesAtOnce_of rfl hidle rfl ((boolArg_toNat on _).trans (allowed_of_false (hgate.trans hnone) _ _))
  case getGated =>
    exact raisesAtOnce_of rfl hidle rfl (allowed_of_false (hgate.trans hnone) _ _)

end Sys2Proof.Machine
end

section
/-! The trigger module selector (spec/44_trigger_module.md R155, R156): the module field, what SET_TRIGGER_MODULE does at each
step, the events it has emitted by each command, and its outcomes. -/

namespace Sys2Proof

theorem TriggerModule.mem_members (m : TriggerModule) :
    m ∈ [TriggerModule.basic, .sadMatch, .advancedPattern, .decodeIO] := by
  cases m <;> decide

end Sys2Proof

namespace Sys2Proof.Machine

/-! The TriggerModule field -/

/-- The module of bits 2:0 is the one whose code they hold, bit by bit. -/
theorem trigModuleOf_eq_some_iff (b : Board) (v : Byte) (m : TriggerModule) :
    trigModuleOf b.params (getbits v 0 3) = some m ↔ ∀ j, j < 3 → (b.params.trigModCode m).getLsbD j = v.getLsbD j := by
  constructor
  · intro h
    have hcode : (b.params.trigModCode m).setWidth 8 = getbits v 0 3 := by simpa using List.find?_some h
    simpa only [Nat.zero_add] using (code_eq_getbits_iff (by decide) _ v 0).1 hcode
  · intro h
    exact memberOf_getbits_eq_some (by decide) (fun _ _ => b.trigModCode_inj) m.mem_members
      (by simpa only [Nat.zero_add] using h)

theorem decodeTrigModule_getbits_of_code (b : Board) {v : Byte} {m : TriggerModule}
    (h : ∀ j, j < 3 → (b.params.trigModCode m).getLsbD j = v.getLsbD j) :
    decodeTrigModule b.params (getbits v 0 3) = .triggerModule m := by
  rw [decodeTrigModule, (trigModuleOf_eq_some_iff b v m).2 h]

theorem decodeTrigModule_getbits_of_no_code {p : Params} {v : Byte}
    (h : ∀ m, ∃ j, j < 3 ∧ (p.trigModCode m).getLsbD j ≠ v.getLsbD j) :
    decodeTrigModule p (getbits v 0 3) = .unrecognised (v.toNat % 8) := by
  rw [decodeTrigModule, trigModuleOf, memberOf_getbits_eq_none (by decide) (by simpa only [Nat.zero_add] using h)]
  simp [getbits_toNat v (lo := 0) (w := 3) (by decide)]

/-! GET_TRIGGER_MODULE -/

theorem getTriggerModule_runsAs {s : State} :
    RunsAs .getTriggerModule s getTriggerModuleBody
      (byteQuery 40 fun v => decodeTrigModule s.cfg.params (getbits v 0 3)) where
  runs := rfl
  plain := rfl
  passes _ _ hcfg _ := by
    rw [← hcfg]
    rfl

/-- Settles O40: the getter answers with the field decoded, and the field decodes as the one module whose code it holds. -/
theorem getTriggerModuleDecodesBits2To0 : Obligations.GetTriggerModuleDecodesBits2To0 := by
  intro s hidle
  obtain ⟨hmodule, hread⟩ := (getTriggerModule_runsAs (s := s)).byteQuery_outcomes hidle rfl rfl
  refine ⟨fun hl => ⟨fun m hcode => ?member, fun hno => ?unassigned⟩, hread⟩
  case member => exact decodeTrigModule_getbits_of_code s.cfg hcode ▸ hmodule hl
  case unassigned => exact decodeTrigModule_getbits_of_no_code hno ▸ hmodule hl

/-! The legal set -/

theorem trigModLegal_eq_contains {s : State} {v : HardwareVariant} (h : s.variant = some v) (m : TriggerModule) :
    s.trigModLegal m = (s.cfg.params.legalTrigMod v).contains m := by
  rw [State.trigModLegal, h]

theorem trigModLegal_of_mem {s : State} {v : HardwareVariant} {m : TriggerModule} (h : s.variant = some v)
    (hm : m ∈ s.cfg.params.legalTrigMod v) : s.trigModLegal m = true :=
  (trigModLegal_eq_contains h m).trans (List.contains_iff_mem.2 hm)

theorem trigModLegal_of_not_mem {s : State} {v : HardwareVariant} {m : TriggerModule} (h : s.variant = some v)
    (hm : m ∉ s.cfg.params.legalTrigMod v) : s.trigModLegal m = false :=
  (trigModLegal_eq_contains h m).trans (Bool.eq_false_iff.2 (mt List.contains_iff_mem.1 hm))

/-! The body of SET_TRIGGER_MODULE -/

section
variable {module : Nat} {m : TriggerModule} (hm : TriggerModule.ofCode module = some m) {u : State}
include hm

theorem setTriggerModuleBody_of_illegal (hno : u.trigModLegal m = false) (pc : Nat) :
    setTriggerModuleBody module u pc = .raise (.invalidParameter [module]) :=
  (selector_of_some hm module _).trans (allowed_of_false hno _ _)

variable (hok : u.trigModLegal m = true)
include hok

theorem setTriggerModuleBody_always_emit (hp : u.cfg.params.edgeFirePolicy = .always) :
    setTriggerModuleBody module u 0 = .emit (m != .basic) := by
  simp [setTriggerModuleBody, selector_of_some hm, allowed_of_true hok, hp]

theorem setTriggerModuleBody_always_read (hp : u.cfg.params.edgeFirePolicy = .always) :
    setTriggerModuleBody module u 1 = .read 40 1 := by
  simp [setTriggerModuleBody, selector_of_some hm, allowed_of_true hok, hp]

theorem setTriggerModuleBody_onChange_read (hp : u.cfg.params.edgeFirePolicy = .onChange) :
    setTriggerModuleBody module u 0 = .read 40 1 := by
  simp [setTriggerModuleBody, selector_of_some hm, allowed_of_true hok, hp]

theorem setTriggerModuleBody_onChange_held (hp : u.cfg.params.edgeFirePolicy = .onChange) {v : Byte}
    (hbuf : u.buf = some [v]) (hheld : trigModuleOf u.cfg.params (getbits v 0 3) = some m) :
    setTriggerModuleBody module u 1 = .jump 2 := by
  simp [setTriggerModuleBody, selector_of_some hm, allowed_of_true hok, hp, withBuf, hbuf, byteAt, hheld]

theorem setTriggerModuleBody_onChange_emit (hp : u.cfg.params.edgeFirePolicy = .onChange) {v : Byte}
    (hbuf : u.buf = some [v]) (hother : trigModuleOf u.cfg.params (getbits v 0 3) ≠ some m) :
    setTriggerModuleBody module u 1 = .emit (m != .basic) := by
  simp [setTriggerModuleBody, selector_of_some hm, allowed_of_true hok, hp, withBuf, hbuf, byteAt, hother]

/-- Under either policy step 2 is the WRITE. -/
theorem setTriggerModuleBody_write {v : Byte} (hbuf : u.buf = some [v]) :
    setTriggerModuleBody module u 2 = .write 40 [setbits v 0 3 ((u.cfg.params.trigModCode m).setWidth 8)] := by
  cases hp : u.cfg.params.edgeFirePolicy <;>
    simp [setTriggerModuleBody, selector_of_some hm, allowed_of_true hok, hp, trigModuleWrite, withBuf, hbuf, byteAt]

theorem setTriggerModuleBody_return : setTriggerModuleBody module u 3 = .ret .nothing := by
  cases hp : u.cfg.params.edgeFirePolicy <;>
    simp [setTriggerModuleBody, selector_of_some hm, allowed_of_true hok, hp]

end

/-! The events -/

/-- The events once module m's edge lock has been emitted from s. -/
def State.eventsLocking (s : State) (m : TriggerModule) : List EdgeLock := s.events ++ [⟨m != .basic⟩]

/-- R155: the events of s when the READ of SET_TRIGGER_MODULE is issued. -/
def State.eventsByRead (s : State) (m : TriggerModule) : List EdgeLock :=
  match s.cfg.params.edgeFirePolicy with
  | .always => s.eventsLocking m
  | .onChange => s.events

/-- R155: the events of s when the WRITE of SET_TRIGGER_MODULE is issued. -/
def State.eventsByWrite (s : State) (m : TriggerModule) : List EdgeLock :=
  match s.cfg.params.edgeFirePolicy with
  | .always => s.eventsLocking m
  | .onChange => if trigModuleOf s.cfg.params (getbits s.trigMod 0 3) = some m then s.events else s.eventsLocking m

section
variable {s : State} (m : TriggerModule)

theorem eventsByRead_of_always (h : s.cfg.params.edgeFirePolicy = .always) : s.eventsByRead m = s.eventsLocking m := by
  rw [State.eventsByRead, h]

theorem eventsByRead_of_onChange (h : s.cfg.params.edgeFirePolicy = .onChange) : s.eventsByRead m = s.events := by
  rw [State.eventsByRead, h]

theorem eventsByWrite_of_always (h : s.cfg.params.edgeFirePolicy = .always) : s.eventsByWrite m = s.eventsLocking m := by
  rw [State.eventsByWrite, h]

theorem eventsByWrite_of_onChange (h : s.cfg.params.edgeFirePolicy = .onChange) :
    s.eventsByWrite m =
      if trigModuleOf s.cfg.params (getbits s.trigMod 0 3) = some m then s.events else s.eventsLocking m := by
  rw [State.eventsByWrite, h]

/-- Under OnChange a module already held emits nothing. -/
theorem eventsByWrite_of_held (h : s.cfg.params.edgeFirePolicy = .onChange)
    (hheld : ∀ j, j < 3 → (s.cfg.params.trigModCode m).getLsbD j = s.trigMod.getLsbD j) :
    s.eventsByWrite m = s.events := by
  rw [eventsByWrite_of_onChange m h, if_pos ((trigModuleOf_eq_some_iff s.cfg s.trigMod m).2 hheld)]

/-- Under Always, and for a module not held, the event has been emitted. -/
theorem eventsByWrite_of_always_or_changed
    (h : s.cfg.params.edgeFirePolicy = .always ∨
      ¬∀ j, j < 3 → (s.cfg.params.trigModCode m).getLsbD j = s.trigMod.getLsbD j) :
    s.eventsByWrite m = s.eventsLocking m := by
  cases hp : s.cfg.params.edgeFirePolicy with
  | always => exact eventsByWrite_of_always m hp
  | onChange =>
    have hchanged := h.resolve_left (by rw [hp]; nofun)
    rw [eventsByWrite_of_onChange m hp, if_neg (mt (trigModuleOf_eq_some_iff s.cfg s.trigMod m).1 hchanged)]

end

/-! The run of SET_TRIGGER_MODULE -/

section
variable {body : State → Nat → Act} {n : Nat} {s t : State} {op : Instr} {pc : Nat} {a : Act}
  (hp : s.phase = .running op pc) (hb : body s pc = a) (ha : perform op pc a s = .next t)
include hp hb ha

/-- The body's primitive is performed and the operation goes on. -/
theorem drive_performs : drive body (n + 1) s = drive body n t :=
  drive_running hp (hb.symm ▸ ha)

/-- The body's primitive is performed and ends the operation. -/
theorem drive_ends (ht : t.AtRest) : drive body (n + 1) s = .next t :=
  (drive_performs hp hb ha).trans (drive_atRest ht)

end

theorem raised_atRest (s : State) (op : Instr) (e : OpError) : (s.raised op e).AtRest :=
  atRest_of_restPhase (op := op) (ok := false) rfl

theorem returned_atRest (s : State) (op : Instr) (r : Result) : (s.returned op r).AtRest :=
  atRest_of_restPhase (op := op) (ok := true) rfl

/-- TriggerModule with the code of m in bits 2:0 (R155). -/
def State.moduleByte (s : State) (m : TriggerModule) : Byte :=
  setbits s.trigMod 0 3 ((s.cfg.params.trigModCode m).setWidth 8)

theorem moduleByte_fieldReplaced (s : State) (m : TriggerModule) :
    FieldReplaced s.trigMod 0 3 ((s.cfg.params.trigModCode m).setWidth 8) (s.moduleByte m) :=
  setbits_fieldReplaced s.trigMod _ 0 3

/-- The state in which operation op issues its WRITE of TriggerModule, with the events evs. -/
def State.beforeModuleWrite (s : State) (op : Instr) (evs : List EdgeLock) : State :=
  { s.afterRead op 40 1 with phase := .running op 2, events := evs }

/-- The READ has taken one draw of the transport. -/
theorem beforeModuleWrite_linkFails (s : State) (op : Instr) (evs : List EdgeLock) :
    (s.beforeModuleWrite op evs).linkFails 0 = s.linkFails 1 := by
  simp [State.linkFails, State.beforeModuleWrite, State.afterRead]

section
variable {module : Nat} {m : TriggerModule} (hm : TriggerModule.ofCode module = some m) {s : State}
  (hok : s.trigModLegal m = true)
include hm hok

section
variable (hidle : s.phase = .idle)
include hidle

/-- Under Always the event comes before the READ. -/
theorem setTriggerModule_always_emits (hp : s.cfg.params.edgeFirePolicy = .always) :
    exec (.setTriggerModule module) s = drive (setTriggerModuleBody module) 63
      (((s.accept (.setTriggerModule module)).emitted (m != .basic)).moveTo (.setTriggerModule module) 1) :=
  (request_idle hidle).trans (drive_performs rfl (setTriggerModuleBody_always_emit hm hok hp) rfl)

/-- Whatever the policy, two primitives lead to the WRITE where the READ completes. -/
theorem setTriggerModule_reaches_write (hl : s.linkFails 0 = false) :
    exec (.setTriggerModule module) s = drive (setTriggerModuleBody module) 62
      (s.beforeModuleWrite (.setTriggerModule module) (s.eventsByWrite m)) := by
  cases hp : s.cfg.params.edgeFirePolicy with
  | always =>
    rw [setTriggerModule_always_emits hm hok hidle hp, eventsByWrite_of_always m hp]
    exact drive_performs rfl (setTriggerModuleBody_always_read hm hok hp)
      (congrArg Host.Outcome.next (doRead_ok rfl hl))
  | onChange =>
    rw [eventsByWrite_of_onChange m hp]
    refine (request_read hidle rfl (setTriggerModuleBody_onChange_read hm hok hp) hl).trans ?_
    by_cases hheld : trigModuleOf s.cfg.params (getbits s.trigMod 0 3) = some m
    · rw [if_pos hheld]
      exact drive_performs rfl (setTriggerModuleBody_onChange_held hm hok hp rfl hheld) rfl
    · rw [if_neg hheld]
      exact drive_performs rfl (setTriggerModuleBody_onChange_emit hm hok hp rfl hheld) rfl

/-- Where the READ fails an event emitted before it stands. -/
theorem setTriggerModule_read_fails (hl : s.linkFails 0 = true) :
    ∃ t, exec (.setTriggerModule module) s = .next t ∧ t.events = s.eventsByRead m ∧
      t.agrees (State.failed { s with events := t.events } (.transportFailure 40) [.read 40 1 none]) := by
  cases hp : s.cfg.params.edgeFirePolicy with
  | always =>
    rw [setTriggerModule_always_emits hm hok hidle hp, eventsByRead_of_always m hp]
    exact ⟨_, drive_ends rfl (setTriggerModuleBody_always_read hm hok hp)
      (congrArg Host.Outcome.next (doRead_fail rfl hl)) (raised_atRest _ _ _), rfl, rfl⟩
  | onChange =>
    rw [eventsByRead_of_onChange m hp]
    exact ⟨_, request_read_fails hidle rfl (setTriggerModuleBody_onChange_read hm hok hp) hl, rfl, rfl⟩

end

theorem beforeModuleWrite_body (op : Instr) (evs : List EdgeLock) :
    setTriggerModuleBody module (s.beforeModuleWrite op evs) 2 = .write 40 [s.moduleByte m] :=
  setTriggerModuleBody_write (u := s.beforeModuleWrite op evs) hm hok rfl

/-- From the WRITE on, where it completes. -/
theorem drive_beforeModuleWrite_completes {op : Instr} (evs : List EdgeLock) (hl : s.linkFails 1 = false) :
    ∃ t, drive (setTriggerModuleBody module) 62 (s.beforeModuleWrite op evs) = .next t ∧ t.events = evs ∧
      t.agrees (State.finished { s with trigMod := s.moduleByte m, events := t.events } .nothing
        [.read 40 1 (some [s.trigMod]), .write 40 [s.moduleByte m] true]) := by
  have hl' : (s.beforeModuleWrite op evs).linkFails 0 = false := (beforeModuleWrite_linkFails s op evs).trans hl
  have hwrite := beforeModuleWrite_body hm hok op evs
  refine ⟨_, (drive_performs rfl hwrite (congrArg Host.Outcome.next (doWrite_ok rfl rfl hl'))).trans
    (drive_ends rfl (setTriggerModuleBody_return hm hok) rfl (returned_atRest _ _ _)), rfl, ?_⟩
  simp [State.agrees, State.specPart, State.finished, State.ended, State.returned, State.moveTo, State.writing,
    State.afterRead, State.beforeModuleWrite]

/-- From the WRITE on, where it fails. -/
theorem drive_beforeModuleWrite_fails (evs : List EdgeLock) (hl : s.linkFails 1 = true) :
    ∃ t c, drive (setTriggerModuleBody module) 62 (s.beforeModuleWrite (.setTriggerModule module) evs) = .next t ∧
      t.events = evs ∧
      t.agrees (State.failed { s with trigMod := c, events := t.events } (.transportFailure 40)
        [.read 40 1 (some [s.trigMod]), .write 40 [s.moduleByte m] false]) := by
  have hl' : (s.beforeModuleWrite (.setTriggerModule module) evs).linkFails 0 = true :=
    (beforeModuleWrite_linkFails s _ evs).trans hl
  have hwrite := beforeModuleWrite_body hm hok (.setTriggerModule module) evs
  refine ⟨_, s.noiseAt 0, drive_ends rfl hwrite (congrArg Host.Outcome.next (doWrite_fail rfl rfl hl'))
    (raised_atRest _ _ _), rfl, ?_⟩
  simp [State.agrees, State.specPart, State.failed, State.ended, State.raised, State.garble, State.writing,
    State.afterRead, State.beforeModuleWrite, State.noiseAt, restPhase, reportOf]

end

/-- Settles O39: the events by each command follow from the policy and the module held; the commands are a read-modify-write
under either policy, and a module outside the legal set fails its check. -/
theorem setTriggerModuleWritesBits2To0 : Obligations.SetTriggerModuleWritesBits2To0 := by
  intro s module m v hidle hvariant hm
  refine ⟨fun hlegal => ?legal, fun hillegal => ?illegal, fun x hx => ?outside⟩
  case legal =>
    intro same event emits
    have hok : s.trigModLegal m = true := trigModLegal_of_mem hvariant hlegal
    refine ⟨_, moduleByte_fieldReplaced s m, fun hl => ?completes, fun hl => ?readFails, fun hl0 hl1 => ?writeFails⟩
    case completes =>
      obtain ⟨t, ht, hevents, hagrees⟩ := drive_beforeModuleWrite_completes hm hok (s.eventsByWrite m) (hl 1 (by decide))
      exact ⟨t, (setTriggerModule_reaches_write hm hok hidle (hl 0 (by decide))).trans ht,
        fun h => hevents.trans (eventsByWrite_of_always_or_changed m h),
        fun hp hsame => hevents.trans (eventsByWrite_of_held m hp hsame), hagrees⟩
    case readFails =>
      obtain ⟨t, ht, hevents, hagrees⟩ := setTriggerModule_read_fails hm hok hidle hl
      exact ⟨t, ht, fun hp => hevents.trans (eventsByRead_of_always m hp),
        fun hp => hevents.trans (eventsByRead_of_onChange m hp), hagrees⟩
    case writeFails =>
      obtain ⟨t, c, ht, hevents, hagrees⟩ := drive_beforeModuleWrite_fails hm hok (s.eventsByWrite m) hl1
      exact ⟨t, c, (setTriggerModule_reaches_write hm hok hidle hl0).trans ht,
        fun h => hevents.trans (eventsByWrite_of_always_or_changed m h),
        fun hp hsame => hevents.trans (eventsByWrite_of_held m hp hsame), hagrees⟩
  case illegal =>
    exact raisesAtOnce_of rfl hidle rfl
      (setTriggerModuleBody_of_illegal hm (trigModLegal_of_not_mem hvariant hillegal) 0)
  case outside =>
    exact raisesAtOnce_of_selector hidle rfl rfl (TriggerModule.ofCode_eq_none hx) rfl

end Sys2Proof.Machine
end

section
/-! The presence probe (spec/45_i2c_master.md R187): its body is the byte read's up to the last step, which answers with the
byte's low nibble, and what it makes of the errors of the byte read. -/

namespace Sys2Proof.Machine

/-- The identification code is the low nibble: the mask drops the high one. -/
theorem presentSignature_eq (d : Byte) : presentSignature d = (d.toNat % 16 == 1) := by
  have hmask : (d &&& 0x0F).toNat = d.toNat % 16 := Nat.and_two_pow_sub_one_eq_mod d.toNat 4
  rw [presentSignature, ← hmask, Bool.eq_iff_iff, beq_iff_eq, beq_iff_eq, BitVec.toNat_eq]
  rfl

/-! The body -/

theorem pllIsPresentBody_handshake (u : State) {pc : Nat} (h : pc < 8) :
    pllIsPresentBody u pc = i2cReadPrim pllSla pllIdReg pc := if_pos h

theorem pllIsPresentBody_returns {u : State} {bs : List Byte} (h : u.buf = some bs) :
    pllIsPresentBody u 8 = .ret (.bool ((byteAt bs 0).toNat % 16 == 1)) := by
  rw [← presentSignature_eq, pllIsPresentBody, if_neg (by decide), withBuf, h]

/-- An operation that returns r right after an I2C byte operation leaves the state that one left, but for
the result: `inside_returns` for any result. -/
theorem inside_returns_result {op : Instr} {body : State → Nat → Act} {m k : Nat} {buf : Option (List Byte)} {t : State}
    {r : Result} (hidle : t.phase = .idle) (hbuf : t.buf = none) (h : body (t.inside op k buf) k = .ret r) :
    drive body (m + 1) (t.inside op k buf) = .next { t with report := .ok r } := by
  rw [drive_ends rfl h rfl (returned_atRest _ _ _)]
  simp only [State.returned, State.inside, restPhase_ok, ← hidle, ← hbuf]

/-! The report -/

/-- Where its byte read ends without a result, what the probe reports. -/
theorem adapt_probe {rep : Report} (h : ∀ r, rep ≠ .ok r) (p : Params) :
    adapt p .pllIsPresent rep = probeReport p rep := by
  cases rep with
  | ok r => exact absurd rfl (h r)
  | none => rfl
  | error e => cases e <;> rfl

/-- Settles O44: the probe's eight primitives end as the byte read does, or go on with its byte, which the last step answers
from. -/
theorem probeReportsPresence : Obligations.ProbeReportsPresence := by
  intro s hidle
  have hprobe : exec .pllIsPresent s = drive pllIsPresentBody (56 + 8) (s.inside .pllIsPresent 0 none) :=
    request_idle hidle
  have hsteps : ∀ u pc, u.cfg = s.cfg → pc < 8 → pllIsPresentBody u (0 + pc) = i2cReadPrim pllSla pllIdReg pc := by
    intro u pc _ hpc
    rw [Nat.zero_add, pllIsPresentBody_handshake u hpc]
  obtain ⟨t, t', hread, hdrive, _, _, hno, ht'⟩ | ⟨t, bs, hread, hend, hbuf, hreport, _, hdrive⟩ :=
    i2cRead_within (op := .pllIsPresent) nofun hidle pllSla pllIdReg none 56 hsteps
  case inl =>
    have hcfg : t.cfg = s.cfg := (request_steady hread).cfg
    exact ⟨t, hread, by rw [hprobe, hdrive, ht', adapt_probe hno, hcfg]⟩
  case inr =>
    refine ⟨t, hread, ?_⟩
    rw [hprobe, hdrive, inside_returns_result hend hbuf (pllIsPresentBody_returns rfl), hreport]
    rfl

end Sys2Proof.Machine
end

section
/-! Sequences of I2C byte operations at the PLL chip (spec/46_pll_programming.md R202): an operation whose body holds a byte
operation from some step on ends there where that byte operation ends without a result, and goes on after it otherwise. -/

namespace Sys2Proof.Machine

/-! Where a body holds a byte operation -/

/-- Steps k to k + 7 of the body are the byte read of the chip's register reg. -/
def ReadsChipAt (body : State → Nat → Act) (c : Board) (k : Nat) (reg : Reg7) : Prop :=
  ∀ u pc, u.cfg = c → pc < 8 → body u (k + pc) = i2cReadPrim pllSla reg pc

/-- Steps k to k + 7 of the body are the byte write of the chip's register reg, of the data byte the WRITE `data` sends. -/
def WritesChipAt (body : State → Nat → Act) (c : Board) (k : Nat) (reg : Reg7) (data : State → Act) : Prop :=
  ∀ u pc, u.cfg = c → pc < 8 → body u (k + pc) = i2cWritePrim pllSla reg (data u) pc

/-- Step k of the body returns, with no result. -/
def ReturnsAt (body : State → Nat → Act) (c : Board) (k : Nat) : Prop := ∀ u, u.cfg = c → body u k = .ret .nothing

/-- The WRITE of the byte f makes of the one just read, or a jump to step `skip` where f makes no change. -/
def changedWrite (u : State) (f : Byte → Byte) (skip : Nat) : Act :=
  withBuf u fun buf => if f (byteAt buf 0) = byteAt buf 0 then .jump skip else dataWrite (f (byteAt buf 0))

theorem patchedWrite_of_buf {u : State} {bs : List Byte} (h : u.buf = some bs) (f : Byte → Byte) :
    patchedWrite u f = dataWrite (f (byteAt bs 0)) := by
  rw [patchedWrite, withBuf, h]

theorem changedWrite_of_same {u : State} {bs : List Byte} (h : u.buf = some bs) {f : Byte → Byte}
    (hf : f (byteAt bs 0) = byteAt bs 0) (skip : Nat) : changedWrite u f skip = .jump skip := by
  rw [changedWrite, withBuf, h]
  exact if_pos hf

theorem changedWrite_of_changed {u : State} {bs : List Byte} (h : u.buf = some bs) {f : Byte → Byte}
    (hf : f (byteAt bs 0) ≠ byteAt bs 0) (skip : Nat) : changedWrite u f skip = dataWrite (f (byteAt bs 0)) := by
  rw [changedWrite, withBuf, h]
  exact if_neg hf

/-- Step k itself, of a byte write there, is the WRITE of the data byte. -/
theorem WritesChipAt.first {body : State → Nat → Act} {c : Board} {k : Nat} {reg : Reg7} {data : State → Act}
    (h : WritesChipAt body c k reg data) (u : State) (hu : u.cfg = c) : body u k = data u :=
  h u 0 hu (by decide)

/-- The state between two byte operations of a sequence on board c, the last of which returned r. -/
structure State.Between (u : State) (c : Board) (r : Result) : Prop where
  idle : u.phase = .idle
  noBuf : u.buf = none
  report : u.report = .ok r
  board : u.cfg = c

theorem EndedTogether.report_ne_ok {op : Instr} {t t' : State} (h : EndedTogether op t t') (r : Result) :
    t.report ≠ .ok r := by
  obtain ⟨-, -, hno, -⟩ := h
  exact hno r

theorem ne_init_of_plain {op : Instr} (h : Instr.plain op = true) (v : Nat) : op ≠ .init v := by
  rintro rfl
  cases h

theorem ne_probe_of_plain {op : Instr} (h : Instr.plain op = true) : op ≠ .pllIsPresent := by
  rintro rfl
  cases h

/-! Running a body over the byte operation it holds -/

section
variable {op : Instr} (hop : Instr.plain op = true) {body : State → Nat → Act} {s : State} {c : Board}
  (hidle : s.phase = .idle) (hcfg : s.cfg = c) {k m : Nat} {reg : Reg7} {buf : Option (List Byte)}
  {next : Result → State → Out}
include hop hidle hcfg

/-- A byte read that the rest of the operation follows. -/
theorem drive_chipRead (hread : ReadsChipAt body c k reg)
    (hnext : ∀ u bs, u.Between c (.byte (byteAt bs 0)) →
      drive body m (u.inside op (k + 8) (some bs)) = next (.byte (byteAt bs 0)) u) :
    drive body (m + 8) (s.inside op k buf) = andThen (exec (.i2cReadByte reg.toNat 0x69) s) next := by
  subst hcfg
  rw [show (0x69 : Nat) = pllSla.toNat from rfl]
  obtain ⟨t, t', hexec, hdrive, hend⟩ | ⟨t, bs, hexec, hphase, hbuf, hreport, hboard, hdrive⟩ :=
    i2cRead_within (ne_init_of_plain hop) hidle pllSla reg buf m hread
  case inl =>
    rw [hdrive, hend.same (ne_probe_of_plain hop), hexec, andThen_not_ok hend.report_ne_ok]
  case inr =>
    rw [hdrive, hexec, andThen_ok hreport, hnext t bs ⟨hphase, hbuf, hreport, hboard⟩]

section
variable {data : State → Act} {d : Byte} (hwrite : WritesChipAt body c k reg data)
  (hdata : data (s.inside op k buf) = dataWrite d)
include hwrite hdata

/-- A byte write, alone and inside the operation: both end without a result, in the same state, or both go on. -/
theorem chipWrite_within (m : Nat) :
    (∃ t, exec (.i2cWriteByte reg.toNat d 0x69) s = .next t ∧ (∀ r, t.report ≠ .ok r) ∧
      drive body (m + 8) (s.inside op k buf) = .next t) ∨
    (∃ t bs, exec (.i2cWriteByte reg.toNat d 0x69) s = .next t ∧ t.Between c .nothing ∧
      drive body (m + 8) (s.inside op k buf) = drive body m (t.inside op (k + 8) bs)) := by
  subst hcfg
  have hfirst : body (s.inside op k buf) k = dataWrite d := (hwrite.first (s.inside op k buf) rfl).trans hdata
  have hlater : ∀ u pc, u.cfg = s.cfg → 0 < pc → pc < 8 →
      body u (k + pc) = i2cWritePrim pllSla reg (dataWrite d) pc := fun u pc hu hpos hpc =>
    (hwrite u pc hu hpc).trans (i2cWritePrim_data hpos)
  obtain ⟨t, t', hexec, hdrive, hend⟩ | ⟨t, bs, hexec, hphase, hbuf, hreport, hboard, hdrive⟩ :=
    i2cWrite_within (ne_init_of_plain hop) hidle pllSla reg d buf m hfirst hlater
  case inl =>
    exact .inl ⟨t, hexec, hend.report_ne_ok, by rw [hdrive, hend.same (ne_probe_of_plain hop)]⟩
  case inr =>
    exact .inr ⟨t, bs, hexec, ⟨hphase, hbuf, hreport, hboard⟩, hdrive⟩

/-- A byte write that the rest of the operation follows. -/
theorem drive_chipWrite
    (hnext : ∀ u bs, u.Between c .nothing → drive body m (u.inside op (k + 8) bs) = next .nothing u) :
    drive body (m + 8) (s.inside op k buf) = andThen (exec (.i2cWriteByte reg.toNat d 0x69) s) next := by
  obtain ⟨t, hexec, hno, hdrive⟩ | ⟨t, bs, hexec, ht, hdrive⟩ := chipWrite_within hop hidle hcfg hwrite hdata m
  case inl => rw [hdrive, hexec, andThen_not_ok hno]
  case inr => rw [hdrive, hexec, andThen_ok ht.report, hnext t bs ht]

/-- A byte write that ends the operation. -/
theorem drive_lastChipWrite (hret : ReturnsAt body c (k + 8)) :
    drive body (m + 9) (s.inside op k buf) = exec (.i2cWriteByte reg.toNat d 0x69) s := by
  obtain ⟨t, hexec, -, hdrive⟩ | ⟨t, bs, hexec, ht, hdrive⟩ := chipWrite_within hop hidle hcfg hwrite hdata (m + 1)
  case inl => exact hdrive.trans hexec.symm
  case inr =>
    refine hdrive.trans ?_
    rw [hexec, inside_returns ht.idle ht.noBuf (hret _ ht.board), ← ht.report]

end

/-- A byte read and a patch of the byte that ends the operation, its WRITE skipped where it would change nothing. -/
theorem drive_chipChange {f : Byte → Byte} (hread : ReadsChipAt body c k reg)
    (hwrite : WritesChipAt body c (k + 8) reg fun u => changedWrite u f (k + 16))
    (hret : ReturnsAt body c (k + 16)) :
    drive body (m + 17) (s.inside op k buf) =
      andThen (exec (.i2cReadByte reg.toNat 0x69) s) fun r u =>
        if f (byteOf r) = byteOf r then .next { u with report := .ok .nothing }
        else exec (.i2cWriteByte reg.toNat (f (byteOf r)) 0x69) u := by
  refine drive_chipRead (m := m + 9) hop hidle hcfg hread fun u bs hu => ?_
  rw [byteOf]
  by_cases hf : f (byteAt bs 0) = byteAt bs 0
  · have hjump : body (u.inside op (k + 8) (some bs)) (k + 8) = .jump (k + 16) :=
      (hwrite.first (u.inside op (k + 8) (some bs)) hu.board).trans (changedWrite_of_same rfl hf _)
    rw [if_pos hf, drive_performs rfl hjump rfl]
    exact inside_returns hu.idle hu.noBuf (hret _ hu.board)
  · rw [if_neg hf]
    exact drive_lastChipWrite hop hu.idle hu.board hwrite (changedWrite_of_changed rfl hf _) hret

end

end Sys2Proof.Machine
end

section
/-! PLL_SETUP_PLL (spec/46_pll_programming.md R196): two byte writes, then a read and a patch that is always written. -/

namespace Sys2Proof.Machine

section
variable {n m num : Nat} {bypass highspeed : Bool}

theorem pllSetupPllBody_of_too_wide {u : State} (h : 2 ^ u.cfg.params.pll.nW ≤ n ∨ 2 ^ u.cfg.params.pll.mW ≤ m) (pc : Nat) :
    pllSetupPllBody n m bypass.toNat highspeed.toNat num u pc = .refuse .pllWidth := by
  rw [pllSetupPllBody, boolArg_toNat, boolArg_toNat]
  exact if_pos h

section
variable {u : State} (hfits : ¬(2 ^ u.cfg.params.pll.nW ≤ n ∨ 2 ^ u.cfg.params.pll.mW ≤ m))
include hfits

theorem pllSetupPllBody_of_other_index (hnum : num ≠ 1) (pc : Nat) :
    pllSetupPllBody n m bypass.toNat highspeed.toNat num u pc = .raise (.invalidParameter [num]) := by
  rw [pllSetupPllBody, boolArg_toNat, boolArg_toNat]
  exact (if_neg hfits).trans (allowed_of_false (beq_false_of_ne hnum) _ _)

/-- Past its checks the body is four byte operations. -/
theorem pllSetupPllBody_of_passes (pc : Nat) :
    pllSetupPllBody n m bypass.toNat highspeed.toNat 1 u pc =
      if pc < 8 then i2cWritePrim pllSla u.cfg.params.pll.mReg (dataWrite (BitVec.ofNat 8 m)) pc
      else if pc < 16 then i2cWritePrim pllSla u.cfg.params.pll.nReg (dataWrite (BitVec.ofNat 8 n)) (pc - 8)
      else if pc < 24 then i2cReadPrim pllSla u.cfg.params.pll.hiReg (pc - 16)
      else if pc < 32 then
        i2cWritePrim pllSla u.cfg.params.pll.hiReg
          (patchedWrite u (pllHiByte u.cfg.params.pll n m bypass highspeed)) (pc - 24)
      else .ret .nothing := by
  rw [pllSetupPllBody, boolArg_toNat, boolArg_toNat, ofNat8_mod, ofNat8_mod]
  exact (if_neg hfits).trans (allowed_of_true (beq_self_eq_true 1) _ _)

end

variable {c : Board} (hfits : ¬(2 ^ c.params.pll.nW ≤ n ∨ 2 ^ c.params.pll.mW ≤ m))
include hfits

theorem pllSetupPll_writes_m :
    WritesChipAt (pllSetupPllBody n m bypass.toNat highspeed.toNat 1) c 0 c.params.pll.mReg
      fun _ => dataWrite (BitVec.ofNat 8 m) := by
  rintro u pc rfl hpc
  rw [pllSetupPllBody_of_passes hfits]
  rw [Nat.zero_add, if_pos hpc]

theorem pllSetupPll_writes_n :
    WritesChipAt (pllSetupPllBody n m bypass.toNat highspeed.toNat 1) c 8 c.params.pll.nReg
      fun _ => dataWrite (BitVec.ofNat 8 n) := by
  rintro u pc rfl hpc
  rw [pllSetupPllBody_of_passes hfits]
  simp (disch := omega) only [if_pos, if_neg, Nat.add_sub_cancel_left]

theorem pllSetupPll_reads_hi :
    ReadsChipAt (pllSetupPllBody n m bypass.toNat highspeed.toNat 1) c 16 c.params.pll.hiReg := by
  rintro u pc rfl hpc
  rw [pllSetupPllBody_of_passes hfits]
  simp (disch := omega) only [if_pos, if_neg, Nat.add_sub_cancel_left]

theorem pllSetupPll_writes_hi :
    WritesChipAt (pllSetupPllBody n m bypass.toNat highspeed.toNat 1) c 24 c.params.pll.hiReg
      fun u => patchedWrite u (pllHiByte c.params.pll n m bypass highspeed) := by
  rintro u pc rfl hpc
  rw [pllSetupPllBody_of_passes hfits]
  simp (disch := omega) only [if_pos, if_neg, Nat.add_sub_cancel_left]

theorem pllSetupPll_returns : ReturnsAt (pllSetupPllBody n m bypass.toNat highspeed.toNat 1) c 32 := by
  rintro u rfl
  exact pllSetupPllBody_of_passes hfits 32

end

/-- R196: the third register's byte in the terms of the statement. -/
theorem pllHiByte_eq (p : PllMap) (n m : Nat) (bypass highspeed : Bool) (h : Byte) :
    pllHiByte p n m bypass highspeed h =
      setbits (setbits (setbits (setbits h p.mHiLo (p.mW - 8) (BitVec.ofNat 8 (m / 256)))
        p.nHiLo (p.nW - 8) (BitVec.ofNat 8 (n / 256))) p.bypassBit 1 (bitOf bypass)) p.hsBit 1 (bitOf highspeed) := by
  simp only [pllHiByte, Nat.shiftRight_eq_div_pow, Nat.reducePow]

/-- Settles O53: the checks come first, then each of the four byte operations is followed by the rest of the body. -/
theorem pllSetupPllIsItsSequence : Obligations.PllSetupPllIsItsSequence := by
  intro s n m num bypass highspeed hidle p i
  refine ⟨fun hwide => ?tooWide, fun hn hm hnum => ?otherIndex, fun hn hm hnum => ?sequence⟩
  case tooWide => exact isRefused_of rfl hidle rfl (pllSetupPllBody_of_too_wide hwide 0)
  case otherIndex =>
    have hfits : ¬(2 ^ p.nW ≤ n ∨ 2 ^ p.mW ≤ m) := by omega
    exact raisesAtOnce_of rfl hidle rfl (pllSetupPllBody_of_other_index (u := s.accept i) hfits hnum 0)
  case sequence =>
    subst hnum
    have hfits : ¬(2 ^ p.nW ≤ n ∨ 2 ^ p.mW ≤ m) := by omega
    have hop : Instr.plain i = true := rfl
    refine (request_idle hidle).trans ?_
    refine drive_chipWrite (m := 56) hop hidle rfl (pllSetupPll_writes_m hfits) rfl fun u _ hu => ?_
    refine drive_chipWrite (m := 48) hop hu.idle hu.board (pllSetupPll_writes_n hfits) rfl fun v _ hv => ?_
    refine drive_chipRead (m := 40) hop hv.idle hv.board (pllSetupPll_reads_hi hfits) fun w bs hw => ?_
    exact drive_lastChipWrite (m := 31) hop hw.idle hw.board (pllSetupPll_writes_hi hfits)
      ((patchedWrite_of_buf rfl _).trans (congrArg dataWrite (pllHiByte_eq p n m bypass highspeed _)))
      (pllSetupPll_returns hfits)

end Sys2Proof.Machine
end

section
/-! PLL_SETUP_DIVIDER (spec/46_pll_programming.md R198): a byte write, then a read and a patch that is skipped where it would
change nothing. -/

namespace Sys2Proof.Machine

/-- A step that sends a changed byte or skips, followed by the seven later steps of a byte write, is a byte write in the body. -/
theorem ite_changedWrite {u : State} {f : Byte → Byte} {reg : Reg7} {skip k pc : Nat} :
    (if k + pc = k then changedWrite u f skip else i2cWritePrim pllSla reg (dataWrite 0) (k + pc - k)) =
      i2cWritePrim pllSla reg (changedWrite u f skip) pc := by
  cases pc with
  | zero => exact if_pos rfl
  | succ j =>
    rw [if_neg (by omega), Nat.add_sub_cancel_left]
    exact i2cWritePrim_data (Nat.succ_pos j)

section
variable {setting source d : Nat}

theorem pllSetupDividerBody_of_wide_source (h : 7 < source) (u : State) (pc : Nat) :
    pllSetupDividerBody setting source d u pc = .refuse .clockSourceId := if_pos h

section
variable (hsource : source ≤ 7)
include hsource

theorem pllSetupDividerBody_of_no_divider (hd : 5 < d) (u : State) (pc : Nat) :
    pllSetupDividerBody setting source d u pc = .raise (.invalidParameter [d]) :=
  (if_neg (by omega)).trans (allowed_of_false (decide_eq_false (by omega)) _ _)

variable (hd : d ≤ 5)
include hd

theorem pllSetupDividerBody_of_bad_setting (hsetting : setting = 0 ∨ 127 < setting) (u : State) (pc : Nat) :
    pllSetupDividerBody setting source d u pc = .raise (.invalidParameter [setting]) :=
  (if_neg (by omega)).trans ((allowed_of_true (decide_eq_true hd) _ _).trans
    (allowed_of_false (decide_eq_false (by omega)) _ _))

variable (hsetting : 1 ≤ setting ∧ setting ≤ 127)
include hsetting

/-- Past its checks the body is a byte write, a byte read and a byte write that may be skipped. -/
theorem pllSetupDividerBody_of_passes (u : State) (pc : Nat) :
    pllSetupDividerBody setting source d u pc =
      if pc < 8 then i2cWritePrim pllSla (u.cfg.params.pll.divReg.get d) (dataWrite (BitVec.ofNat 8 setting)) pc
      else if pc < 16 then i2cReadPrim pllSla (u.cfg.params.pll.srcReg d) (pc - 8)
      else if pc = 16 then changedWrite u (pllSourceByte u.cfg.params.pll d source) 24
      else if pc < 24 then i2cWritePrim pllSla (u.cfg.params.pll.srcReg d) (dataWrite 0) (pc - 16)
      else .ret .nothing :=
  (if_neg (by omega)).trans ((allowed_of_true (decide_eq_true hd) _ _).trans
    (allowed_of_true (decide_eq_true hsetting) _ _))

theorem pllSetupDivider_writes_setting (c : Board) :
    WritesChipAt (pllSetupDividerBody setting source d) c 0 (c.params.pll.divReg.get d)
      fun _ => dataWrite (BitVec.ofNat 8 setting) := by
  rintro u pc rfl hpc
  rw [pllSetupDividerBody_of_passes hsource hd hsetting, Nat.zero_add, if_pos hpc]

theorem pllSetupDivider_reads_source (c : Board) :
    ReadsChipAt (pllSetupDividerBody setting source d) c 8 (c.params.pll.srcReg d) := by
  rintro u pc rfl hpc
  rw [pllSetupDividerBody_of_passes hsource hd hsetting]
  simp (disch := omega) only [if_pos, if_neg, Nat.add_sub_cancel_left]

theorem pllSetupDivider_changes_source (c : Board) :
    WritesChipAt (pllSetupDividerBody setting source d) c 16 (c.params.pll.srcReg d)
      fun u => changedWrite u (pllSourceByte c.params.pll d source) 24 := by
  rintro u pc rfl hpc
  rw [pllSetupDividerBody_of_passes hsource hd hsetting, if_neg (by omega), if_neg (by omega),
    if_pos (show 16 + pc < 24 by omega), ite_changedWrite]

theorem pllSetupDivider_returns (c : Board) : ReturnsAt (pllSetupDividerBody setting source d) c 24 :=
  fun u _ => pllSetupDividerBody_of_passes hsource hd hsetting u 24

end
end

/-- Settles O54: the checks come first, in order; then the write of the setting is followed by the change of the source. -/
theorem pllSetupDividerIsItsSequence : Obligations.PllSetupDividerIsItsSequence := by
  intro s setting source d hidle p i
  refine ⟨fun hsource => ?wideSource, fun hsource hd => ?noDivider, fun hsource hd hsetting => ?badSetting,
    fun hsource hd hlo hhi => ?sequence⟩
  case wideSource => exact isRefused_of rfl hidle rfl (pllSetupDividerBody_of_wide_source hsource _ 0)
  case noDivider => exact raisesAtOnce_of rfl hidle rfl (pllSetupDividerBody_of_no_divider hsource hd _ 0)
  case badSetting => exact raisesAtOnce_of rfl hidle rfl (pllSetupDividerBody_of_bad_setting hsource hd hsetting _ 0)
  case sequence =>
    have hop : Instr.plain i = true := rfl
    have hsetting : 1 ≤ setting ∧ setting ≤ 127 := ⟨hlo, hhi⟩
    refine (request_idle hidle).trans ?_
    refine drive_chipWrite (m := 56) hop hidle rfl (pllSetupDivider_writes_setting hsource hd hsetting s.cfg) rfl
      fun u _ hu => ?_
    exact drive_chipChange (m := 39) hop hu.idle hu.board (pllSetupDivider_reads_source hsource hd hsetting s.cfg)
      (pllSetupDivider_changes_source hsource hd hsetting s.cfg) (pllSetupDivider_returns hsource hd hsetting s.cfg)

end Sys2Proof.Machine
end

section
/-! PLL_SETUP_OUTPUT (spec/46_pll_programming.md R199): one byte write. -/

namespace Sys2Proof.Machine

section
variable {out source slew : Nat} {invert enabled : Bool}

theorem pllSetupOutputBody_of_wide_number (h : 5 < out ∨ 3 < slew) (u : State) (pc : Nat) :
    pllSetupOutputBody out invert.toNat enabled.toNat source slew u pc = .refuse .outputNumber := by
  rw [pllSetupOutputBody, boolArg_toNat, boolArg_toNat]
  exact if_pos h

section
variable (hnumbers : ¬(5 < out ∨ 3 < slew))
include hnumbers

theorem pllSetupOutputBody_of_no_source (hsource : 5 < source) (u : State) (pc : Nat) :
    pllSetupOutputBody out invert.toNat enabled.toNat source slew u pc = .raise (.invalidParameter [source]) := by
  rw [pllSetupOutputBody, boolArg_toNat, boolArg_toNat]
  exact (if_neg hnumbers).trans (allowed_of_false (decide_eq_false (by omega)) _ _)

variable (hsource : source ≤ 5)
include hsource

/-- Past its checks the body is one byte write. -/
theorem pllSetupOutputBody_of_passes (u : State) (pc : Nat) :
    pllSetupOutputBody out invert.toNat enabled.toNat source slew u pc =
      if pc < 8 then
        i2cWritePrim pllSla (pllOutputReg u.cfg.params.pll out)
          (dataWrite (pllOutputByte u.cfg.params.pll invert enabled source slew)) pc
      else .ret .nothing := by
  rw [pllSetupOutputBody, boolArg_toNat, boolArg_toNat]
  exact (if_neg hnumbers).trans (allowed_of_true (decide_eq_true hsource) _ _)

theorem pllSetupOutput_writes (c : Board) :
    WritesChipAt (pllSetupOutputBody out invert.toNat enabled.toNat source slew) c 0 (pllOutputReg c.params.pll out)
      fun _ => dataWrite (pllOutputByte c.params.pll invert enabled source slew) := by
  rintro u pc rfl hpc
  rw [pllSetupOutputBody_of_passes hnumbers hsource, Nat.zero_add, if_pos hpc]

theorem pllSetupOutput_returns (c : Board) :
    ReturnsAt (pllSetupOutputBody out invert.toNat enabled.toNat source slew) c 8 :=
  fun u _ => pllSetupOutputBody_of_passes hnumbers hsource u 8

end
end

/-- R195: the six output registers have 7-bit numbers. -/
theorem pllOutputReg_toNat (b : Board) {out : Nat} (h : out ≤ 5) :
    (pllOutputReg b.params.pll out).toNat = b.params.pll.outBase + out := by
  obtain ⟨-, -, -, -, -, -, hbase, -⟩ := b.pll_facts
  rw [pllOutputReg, BitVec.toNat_ofNat, Nat.mod_eq_of_lt (by omega)]

/-- Settles O55: the checks come first, then the body is the byte write. -/
theorem pllSetupOutputIsItsSequence : Obligations.PllSetupOutputIsItsSequence := by
  intro s out source slew invert enabled hidle p i
  refine ⟨fun hwide => ?wideNumber, fun hout hslew hsource => ?noSource, fun hout hslew hsource => ?write⟩
  case wideNumber => exact isRefused_of rfl hidle rfl (pllSetupOutputBody_of_wide_number hwide _ 0)
  case noSource => exact raisesAtOnce_of rfl hidle rfl (pllSetupOutputBody_of_no_source (by omega) hsource _ 0)
  case write =>
    intro b
    have hnumbers : ¬(5 < out ∨ 3 < slew) := by omega
    rw [← pllOutputReg_toNat s.cfg hout]
    exact (request_idle hidle).trans (drive_lastChipWrite (m := 55) (op := i) rfl hidle rfl
      (pllSetupOutput_writes hnumbers hsource s.cfg) rfl (pllSetupOutput_returns hnumbers hsource s.cfg))

end Sys2Proof.Machine
end

section
/-! PLL_SETUP_CLOCK_SOURCE (spec/46_pll_programming.md R200): where `CS1_COND` holds a read and a patch that is always written,
then a read and a patch that is skipped where it would change nothing. -/

namespace Sys2Proof.Machine

section
variable {diff in0 in1 : Bool}

theorem pllSetupClockSourceBody_of_no_input (hdiff : diff = false) (hin : in0 = in1) (u : State) (pc : Nat) :
    pllSetupClockSourceBody diff.toNat in0.toNat in1.toNat u pc = .raise (.invalidParameter []) := by
  subst hdiff hin
  rw [pllSetupClockSourceBody, boolArg_toNat, boolArg_toNat, boolArg_toNat]
  exact allowed_of_false (by simp) _ _

section
variable (hin : diff = true ∨ in0 ≠ in1)
include hin

/-- Past its check the body is a byte read and a byte write, or a jump over them, then a byte read and a byte write that may be
skipped. -/
theorem pllSetupClockSourceBody_of_passes (u : State) (pc : Nat) :
    pllSetupClockSourceBody diff.toNat in0.toNat in1.toNat u pc =
      if pc = 0 then
        if u.cfg.params.pll.cs1Cond.look diff in0 in1 then i2cReadPrim pllSla u.cfg.params.pll.cs1Reg 0 else .jump 16
      else if pc < 8 then i2cReadPrim pllSla u.cfg.params.pll.cs1Reg pc
      else if pc < 16 then
        i2cWritePrim pllSla u.cfg.params.pll.cs1Reg
          (patchedWrite u (pllCs1Byte u.cfg.params.pll diff in0 in1)) (pc - 8)
      else if pc < 24 then i2cReadPrim pllSla u.cfg.params.pll.cs2Reg (pc - 16)
      else if pc = 24 then changedWrite u (pllCs2Byte u.cfg.params.pll diff) 32
      else if pc < 32 then i2cWritePrim pllSla u.cfg.params.pll.cs2Reg (dataWrite 0) (pc - 24)
      else .ret .nothing := by
  rw [pllSetupClockSourceBody, boolArg_toNat, boolArg_toNat, boolArg_toNat]
  exact allowed_of_true (by simpa using hin) _ _

theorem pllSetupClockSource_skips_cs1 {u : State} (hcond : u.cfg.params.pll.cs1Cond.look diff in0 in1 = false) :
    pllSetupClockSourceBody diff.toNat in0.toNat in1.toNat u 0 = .jump 16 := by
  rw [pllSetupClockSourceBody_of_passes hin, if_pos rfl, hcond, if_neg Bool.false_ne_true]

theorem pllSetupClockSource_reads_cs1 {c : Board} (hcond : c.params.pll.cs1Cond.look diff in0 in1 = true) :
    ReadsChipAt (pllSetupClockSourceBody diff.toNat in0.toNat in1.toNat) c 0 c.params.pll.cs1Reg := by
  rintro u pc rfl hpc
  rw [pllSetupClockSourceBody_of_passes hin, Nat.zero_add, if_pos hcond, if_pos hpc]
  by_cases hfirst : pc = 0
  · rw [if_pos hfirst, hfirst]
  · rw [if_neg hfirst]

variable (c : Board)

theorem pllSetupClockSource_writes_cs1 :
    WritesChipAt (pllSetupClockSourceBody diff.toNat in0.toNat in1.toNat) c 8 c.params.pll.cs1Reg
      fun u => patchedWrite u (pllCs1Byte c.params.pll diff in0 in1) := by
  rintro u pc rfl hpc
  rw [pllSetupClockSourceBody_of_passes hin]
  simp (disch := omega) only [if_pos, if_neg, Nat.add_sub_cancel_left]

theorem pllSetupClockSource_reads_cs2 :
    ReadsChipAt (pllSetupClockSourceBody diff.toNat in0.toNat in1.toNat) c 16 c.params.pll.cs2Reg := by
  rintro u pc rfl hpc
  rw [pllSetupClockSourceBody_of_passes hin]
  simp (disch := omega) only [if_pos, if_neg, Nat.add_sub_cancel_left]

theorem pllSetupClockSource_changes_cs2 :
    WritesChipAt (pllSetupClockSourceBody diff.toNat in0.toNat in1.toNat) c 24 c.params.pll.cs2Reg
      fun u => changedWrite u (pllCs2Byte c.params.pll diff) 32 := by
  rintro u pc rfl hpc
  rw [pllSetupClockSourceBody_of_passes hin, if_neg (by omega), if_neg (by omega), if_neg (by omega), if_neg (by omega),
    if_pos (show 24 + pc < 32 by omega), ite_changedWrite]

theorem pllSetupClockSource_returns :
    ReturnsAt (pllSetupClockSourceBody diff.toNat in0.toNat in1.toNat) c 32 :=
  fun u _ => pllSetupClockSourceBody_of_passes hin u 32

end
end

/-- Settles O56: the check comes first; then the second register's change follows the first register's patch, or the jump over
it. -/
theorem pllSetupClockSourceIsItsSequence : Obligations.PllSetupClockSourceIsItsSequence := by
  intro s diff in0 in1 hidle p i second
  refine ⟨fun hdiff hin => ?noInput, fun hin => ?sequence⟩
  case noInput => exact raisesAtOnce_of rfl hidle rfl (pllSetupClockSourceBody_of_no_input hdiff hin _ 0)
  case sequence =>
    have hop : Instr.plain i = true := rfl
    have hsecond : ∀ (m : Nat) (u : State) (buf : Option (List Byte)), u.phase = .idle → u.cfg = s.cfg →
        drive (pllSetupClockSourceBody diff.toNat in0.toNat in1.toNat) (m + 17) (u.inside i 16 buf) = second u :=
      fun m u buf hu hboard => drive_chipChange hop hu hboard (pllSetupClockSource_reads_cs2 hin s.cfg)
        (pllSetupClockSource_changes_cs2 hin s.cfg) (pllSetupClockSource_returns hin s.cfg)
    refine (request_idle hidle).trans ?_
    cases hcond : p.cs1Cond.look diff in0 in1 with
    | false =>
      rw [if_neg Bool.false_ne_true]
      exact (drive_performs (n := 63) rfl (pllSetupClockSource_skips_cs1 (u := s.accept i) hin hcond) rfl).trans
        (hsecond 46 s none hidle rfl)
    | true =>
      rw [if_pos rfl]
      refine drive_chipRead (m := 56) hop hidle rfl (pllSetupClockSource_reads_cs1 hin hcond) fun u bs hu => ?_
      exact drive_chipWrite (m := 48) hop hu.idle hu.board (pllSetupClockSource_writes_cs1 hin s.cfg)
        (patchedWrite_of_buf rfl _) fun v buf hv => hsecond 31 v buf hv.idle hv.board

end Sys2Proof.Machine
end

section
/-! INIT on a block without a profile (spec/70_reset_and_hazards.md R233): with a known variant it runs as a request on the
block that holds variant and profile, where the quirk variant's body is the edit of ExternalClock that SET_CLOCK_SOURCE
TargetIOIn makes (spec/43_clock_routing.md R146). -/

namespace Sys2Proof.Machine

/-! INIT as a request -/

/-- s holding variant v and its profile, ready to run an operation. -/
def State.constructedAs (s : State) (v : HardwareVariant) : State :=
  { s with variant := some v, caps := some (s.cfg.params.capsOf v), phase := .idle }

/-- INIT with a known variant is a request on the block that already holds variant and profile. -/
theorem exec_init_eq_request {s : State} (hs : s.phase = .unconstructed) {c : Nat} {v : HardwareVariant}
    (hv : HardwareVariant.ofCode c = some v) :
    exec (.init c) s = request (.init c) (initBody v) (s.constructedAs v) := by
  change execInit c s = _
  simp only [execInit, hs, hv]
  rfl

/-- A constructed block refuses INIT. -/
theorem exec_init_constructed {s : State} (hs : s.phase = .idle) (c : Nat) :
    exec (.init c) s = .next (s.refuse .constructed) := by
  change execInit c s = _
  simp only [execInit, hs]

/-! The body of INIT for a variant without the quirk, and for the quirk variant -/

theorem initBody_of_ne_quirk {s : State} {v : HardwareVariant} (hv : v ≠ s.cfg.params.quirkVariant) (pc : Nat) :
    initBody v s pc = .ret .nothing :=
  if_neg hv

/-- ExternalClock byte b with source TargetIOIn in its bits 2:0 (R140). -/
def targetIOInSelected (p : Params) (b : Byte) : Byte := setbits b 0 3 ((p.clkSrcCode .targetIOIn).setWidth 8)

theorem targetIOInSelected_fieldReplaced (p : Params) (b : Byte) :
    FieldReplaced b 0 3 ((p.clkSrcCode .targetIOIn).setWidth 8) (targetIOInSelected p b) :=
  setbits_fieldReplaced b _ 0 3

/-- No profile shuts TargetIOIn out, so the quirk's SET_CLOCK_SOURCE passes its checks. -/
theorem initBody_of_quirk {s : State} {v : HardwareVariant} (hv : v = s.cfg.params.quirkVariant) (pc : Nat) :
    initBody v s pc = byteEdit 38 (targetIOInSelected s.cfg.params) s pc :=
  (if_pos hv).trans ((setClockSource_runsAs (source := targetIOInCode) (src := .targetIOIn) rfl rfl).passes s pc rfl rfl)

/-- The quirk variant's step after its READ: the WRITE of the byte read with TargetIOIn selected. -/
theorem initBody_quirk_afterRead {s : State} {v : HardwareVariant} (hv : v = s.cfg.params.quirkVariant) (op : Instr) :
    initBody v ((s.constructedAs v).afterRead op 38 1) 1 = .write 38 [targetIOInSelected s.cfg.params s.extClk] :=
  (initBody_of_quirk (s := (s.constructedAs v).afterRead op 38 1) hv 1).trans (byteEdit_one rfl 38 _)

/-! The outcomes of INIT -/

section
variable {s : State} (hs : s.phase = .unconstructed) {c : Nat} {v : HardwareVariant} (hv : HardwareVariant.ofCode c = some v)
include hs hv

/-- A variant without the quirk is constructed with no command. -/
theorem exec_init_of_ne_quirk (hne : v ≠ s.cfg.params.quirkVariant) :
    exec (.init c) s = .next (((s.constructedAs v).accept (.init c)).returned (.init c) .nothing) := by
  refine (exec_init_eq_request hs hv).trans (request_ends rfl ?_ (returned_atRest _ _ _))
  rw [initBody_of_ne_quirk (s := (s.constructedAs v).accept (.init c)) hne]
  rfl

section
variable (hquirk : v = s.cfg.params.quirkVariant)
include hquirk

/-- The quirk variant's INIT fails where the READ of ExternalClock does. -/
theorem exec_init_quirk_read_fails (hl : s.linkFails 0 = true) :
    ∃ t, exec (.init c) s = .next t ∧ t.phase = .unconstructed ∧ t.extClk = s.extClk ∧
      t.report = .error (.transportFailure 38) :=
  ⟨_, (exec_init_eq_request hs hv).trans (request_read_fails rfl rfl (initBody_of_quirk hquirk 0) hl), rfl, rfl, rfl⟩

/-- The quirk variant's INIT fails where the WRITE of ExternalClock does. -/
theorem exec_init_quirk_write_fails (hl0 : s.linkFails 0 = false) (hl1 : s.linkFails 1 = true) :
    ∃ t, exec (.init c) s = .next t ∧ t.phase = .unconstructed ∧ t.report = .error (.transportFailure 38) :=
  ⟨_, (exec_init_eq_request hs hv).trans (request_setter_fails rfl rfl rfl (by decide) (initBody_of_quirk hquirk 0) hl0 hl1
    (initBody_quirk_afterRead hquirk _)), rfl, rfl⟩

/-- The quirk variant is constructed once both commands have completed. -/
theorem exec_init_quirk_completes (hl : s.linkUp 2) :
    ∃ t, exec (.init c) s = .next t ∧
      t.agrees (State.finished { s.constructedAs v with extClk := targetIOInSelected s.cfg.params s.extClk } .nothing
        [.read 38 1 (some [s.extClk]), .write 38 [targetIOInSelected s.cfg.params s.extClk] true]) :=
  ⟨_, (exec_init_eq_request hs hv).trans (request_setter rfl rfl rfl (by decide) (initBody_of_quirk hquirk 0)
    (hl 0 (by decide)) (hl 1 (by decide)) (initBody_quirk_afterRead hquirk _) (initBody_of_quirk hquirk 2)), by
    simp [State.agrees, State.specPart, State.finished, State.ended, State.returned, State.moveTo, State.writing,
      State.afterRead, State.constructedAs]⟩

end

end

/-! The obligation -/

/-- Settles O10: INIT's outcomes for an unknown variant, one without the quirk and the quirk variant, whose default is the
SET_CLOCK_SOURCE edit of ExternalClock. -/
theorem initConstructs : Obligations.InitConstructs := by
  intro s
  refine ⟨fun hidle c => ⟨_, exec_init_constructed hidle c, refuse_agrees_declined s _⟩,
    fun hs => ⟨fun c hc => exec_init_unsupported hs hc, fun c v hv => ⟨fun hne => ?ordinary, fun hquirk => ?quirk⟩⟩⟩
  case ordinary =>
    refine ⟨_, exec_init_of_ne_quirk hs hv hne, ?_⟩
    simp [State.agrees, State.specPart, State.finished, State.ended, State.returned, State.accept, State.constructedAs]
  case quirk =>
    exact ⟨_, targetIOInSelected_fieldReplaced s.cfg.params s.extClk, exec_init_quirk_completes hs hv hquirk,
      exec_init_quirk_read_fails hs hv hquirk, exec_init_quirk_write_fails hs hv hquirk⟩

end Sys2Proof.Machine
end

section
/-! Requests (spec/30_encoding.md R81, R88): the round trip of the encoding, and what a request's bytes stand for. -/

namespace Sys2Proof.Machine

/-- Settles O1, instruction by instruction. -/
theorem decodeOfEncode : Obligations.DecodeOfEncode := by
  intro i
  cases i with
  | read addr len => exact Laws.RoundTrip.read addr len
  | write addr payload => exact Laws.RoundTrip.write addr payload
  | fieldSet addr byteOff bitOff width inverted value =>
    exact Laws.RoundTrip.fieldSet addr byteOff bitOff width inverted value
  | fieldGet addr byteOff bitOff width inverted => exact Laws.RoundTrip.fieldGet addr byteOff bitOff width inverted
  | setPin pin enabled => exact Laws.RoundTrip.setPin pin enabled
  | getPin pin => exact Laws.RoundTrip.getPin pin
  | setCollectionMode mode => exact Laws.RoundTrip.setCollectionMode mode
  | getCollectionMode => exact Laws.RoundTrip.getCollectionMode
  | setIoRoute pinIndex mode => exact Laws.RoundTrip.setIoRoute pinIndex mode
  | getIoRoute pinIndex => exact Laws.RoundTrip.getIoRoute pinIndex
  | setGpioState gpioPin state => exact Laws.RoundTrip.setGpioState gpioPin state
  | getGpioState gpioPin => exact Laws.RoundTrip.getGpioState gpioPin
  | setPowerState enabled => exact Laws.RoundTrip.setPowerState enabled
  | getPowerState => exact Laws.RoundTrip.getPowerState
  | setGlitchOutEn channel enabled => exact Laws.RoundTrip.setGlitchOutEn channel enabled
  | getGlitchOutEn channel => exact Laws.RoundTrip.getGlitchOutEn channel
  | setClockSource source => exact Laws.RoundTrip.setClockSource source
  | getClockSource => exact Laws.RoundTrip.getClockSource
  | setTargetClockOut mode => exact Laws.RoundTrip.setTargetClockOut mode
  | getTargetClockOut => exact Laws.RoundTrip.getTargetClockOut
  | setTrigoutFpa enabled => exact Laws.RoundTrip.setTrigoutFpa enabled
  | getTrigoutFpa => exact Laws.RoundTrip.getTrigoutFpa
  | setTriggerModule module => exact Laws.RoundTrip.setTriggerModule module
  | getTriggerModule => exact Laws.RoundTrip.getTriggerModule
  | i2cReadByte reg sla => exact Laws.RoundTrip.i2cReadByte reg sla
  | i2cWriteByte reg data sla => exact Laws.RoundTrip.i2cWriteByte reg data sla
  | pllIsPresent => exact Laws.RoundTrip.pllIsPresent
  | pllSetupPll n m bypass highspeed num => exact Laws.RoundTrip.pllSetupPll n m bypass highspeed num
  | pllSetupDivider setting clockSourceId divNum => exact Laws.RoundTrip.pllSetupDivider setting clockSourceId divNum
  | pllSetupOutput outNum invert enabled divSource slewRate =>
    exact Laws.RoundTrip.pllSetupOutput outNum invert enabled divSource slewRate
  | pllSetupClockSource differential useIN0 useIN1 =>
    exact Laws.RoundTrip.pllSetupClockSource differential useIN0 useIN1
  | init variant => exact Laws.RoundTrip.init variant

/-- Settles O2: the requests are closed terms, which the decoder evaluates. -/
theorem wordsDecode : Obligations.WordsDecode := by
  unfold Obligations.WordsDecode
  decide

/-- R81, R88: the opcodes of the two transport commands and the selectors of the thirty operations. -/
def firstBytes : List Nat :=
  [0x80, 0xC0, 0x01, 0x02, 0x10, 0x11, 0x12, 0x13, 0x20, 0x21, 0x22, 0x23, 0x24, 0x25, 0x26, 0x27, 0x30, 0x31, 0x32, 0x33,
    0x34, 0x35, 0x40, 0x41, 0x50, 0x51, 0x52, 0x60, 0x61, 0x62, 0x63, 0x70]

/-- Each branch of the decoder but the last is taken by a first byte of the list. -/
theorem decodeOp_reserved {op : Byte} (h : op.toNat ∉ firstBytes) (rest : List Byte) :
    decodeOp op rest = .error (.reserved op) := by
  unfold decodeOp
  split
  case h_33 => rfl
  all_goals
    rename_i heq
    exact absurd (heq ▸ by decide) h

end Sys2Proof.Machine
end

section
/-! One step of the block (spec/10_state.md R20, R26; spec/45_i2c_master.md R173): what it does in a state with an operation in
progress, and at rest with no request waiting, with one that decodes and with one that does not. -/

namespace Sys2Proof.Machine

/-! Requests to a sequencer that is running -/

theorem exec_running {s : State} {op : Instr} {pc : Nat} (h : s.phase = .running op pc) (i : Instr) :
    exec i s = .next s := by
  cases i with
  | init v => simp only [exec, execInit, h]
  | _ => exact request_running h

/-! The engine's turn -/

theorem engineTurn_of_not_busy {s : State} (h : ∀ txn, s.eng ≠ .busy txn) : s.engineTurn = s := by
  unfold State.engineTurn
  split
  · exact absurd ‹_› (h _)
  · rfl

theorem engineTurn_of_busy {s : State} {txn : Txn} (h : s.eng = .busy txn) :
    s.engineTurn = if s.engineDone 0 then State.complete { s with engine := s.engine.skip 1 }
      else { s with engine := s.engine.skip 1 } := by
  simp only [State.engineTurn, h]

theorem engineTurn_quiet (s : State) : Quiet s s.engineTurn := by
  have hskip : Quiet s { s with engine := s.engine.skip 1 } := Quiet.of_eq rfl rfl id
  unfold State.engineTurn
  split
  · dsimp only
    split
    · exact hskip.trans (complete_quiet _)
    · exact hskip
  · exact Quiet.refl s

/-- An engine at rest leaves taking up a request to the sequencer alone. -/
theorem taken_of_not_busy {s : State} (h : ∀ txn, s.eng ≠ .busy txn) (rest : List (List Byte)) :
    s.taken rest = { s with requests := rest } := by
  rw [State.taken, engineTurn_of_not_busy h]

theorem taken_phase (s : State) (rest : List (List Byte)) : (s.taken rest).phase = s.phase := (engineTurn_quiet s).phase

theorem State.AtRest.taken {s : State} (h : s.AtRest) (rest : List (List Byte)) : (s.taken rest).AtRest :=
  fun op pc => taken_phase s rest ▸ h op pc

/-! The step -/

theorem step_running {s : State} {op : Instr} {pc : Nat} (h : s.phase = .running op pc) :
    step s = drive (bodyOf op) opFuel s := by
  simp only [step, State.resume, h]

section
variable {s : State} (h : s.AtRest)
include h

/-- At rest a step is the choice between the caller's next request and the engine. -/
theorem step_atRest : step s =
    match s.requests with
    | [] => .next s.complete
    | r :: rest =>
      match decode r with
      | .ok i => exec i (s.taken rest)
      | .error e => .next ((s.taken rest).refuse (.request e)) := by
  unfold step
  split
  · exact absurd ‹_› (h _ _)
  · rfl

theorem step_no_request (hq : s.requests = []) : step s = .next s.complete := by
  rw [step_atRest h, hq]

variable {r : List Byte} {rest : List (List Byte)} (hq : s.requests = r :: rest)
include hq

theorem step_request {i : Instr} (hd : decode r = .ok i) : step s = exec i (s.taken rest) := by
  simp only [step_atRest h, hq, hd]

theorem step_undecodable {e : DecodeError} (hd : decode r = .error e) :
    step s = .next ((s.taken rest).refuse (.request e)) := by
  simp only [step_atRest h, hq, hd]

end

/-! The obligations -/

/-- Settles O3: a reserved first byte reaches the decoder's last branch, and a request that does not decode is refused. -/
theorem reservedFirstBytesAreRefused : Obligations.ReservedFirstBytesAreRefused := by
  intro s op rest more hrest hidle hq hop
  have hd : decode (op :: rest) = .error (.reserved op) := decodeOp_reserved hop rest
  refine ⟨hd, _, step_undecodable hrest hq hd, ?_⟩
  rw [taken_of_not_busy (by simp [hidle])]
  exact refuse_agrees_declined _ _

/-- Settles O4: the engine takes its turn, then the request is executed. -/
theorem stepRunsDecodedRequest : Obligations.StepRunsDecodedRequest := by
  intro s r rest i hrest hq hd
  refine ⟨fun hne => ?_, fun txn hbusy => ?_⟩
  · rw [step_request hrest hq hd, taken_of_not_busy hne]
  · rw [step_request hrest hq hd, State.taken, engineTurn_of_busy hbusy]

/-- Settles O5: the fetched request is the caller's next one. -/
theorem stepRunsFetchedWord : Obligations.StepRunsFetchedWord := by
  intro s nbits w i hrest hidle hw
  have hd : decode (requestOfWord nbits w) = .ok i := by
    unfold decodeTableWord at hw
    cases hdec : decode (requestOfWord nbits w) with
    | ok j => rw [hdec] at hw; exact congrArg Except.ok (Option.some.inj hw)
    | error e => rw [hdec] at hw; cases hw
  rw [State.withFetchWord, step_request (s := s.withRequest _) hrest rfl hd, taken_of_not_busy (by simp [hidle])]
  rfl

/-- Settles O6: a request to a running sequencer changes nothing, and the running operation takes up none. -/
theorem runningBlocksRequests : Obligations.RunningBlocksRequests := by
  intro s op pc hrun
  refine ⟨exec_running hrun, fun t ht => ?_⟩
  rw [step_running hrun] at ht
  exact (drive_steady ht).requests

/-- Settles O7: with no request waiting the step is the engine's completion. -/
theorem engineCompletes : Obligations.EngineCompletes := by
  intro s txn hrest hq hbusy
  rw [step_no_request hrest hq]
  exact ⟨fun hw => congrArg Host.Outcome.next (complete_write hbusy hw),
    fun hr => congrArg Host.Outcome.next (complete_read hbusy hr)⟩

/-- Settles O8: each field is reset's. -/
theorem resetState : Obligations.ResetState := ⟨rfl, rfl, rfl, rfl, rfl, rfl, rfl, rfl⟩

/-- Settles O58: IORoute is filled to its width, the slave is lawless, and the block is not constructed. -/
theorem invariantAtReset : Obligations.InvariantAtReset where
  routeWidth := List.length_replicate
  slaveForm := nofun
  profile := .inl rfl

end Sys2Proof.Machine
end

section
/-! What every step carries over (spec/10_state.md R21, R45, R47, R52; spec/60_exceptions.md R222): an operation is steady, but
that INIT sets variant and profile before it runs. -/

namespace Sys2Proof.Machine

/-- What a step carries over from s to t: what an operation does (`Steady`), but for the requests, which it takes up, and for
the variant and profile of a block that is not constructed. -/
structure Carries (s t : State) : Prop where
  cfg : t.cfg = s.cfg
  variant : s.phase ≠ .unconstructed → t.variant = s.variant
  caps : s.phase ≠ .unconstructed → t.caps = s.caps
  dataReg : t.dataReg = s.dataReg
  lengthReg : t.lengthReg = s.lengthReg
  baudReg : t.baudReg = s.baudReg
  refused : s.refused = true → t.refused = true
  undefinedStays : s.eng = .undefined → t.eng = .undefined
  trace : ∃ tr, t.trace = s.trace ++ tr

theorem Steady.carries {s t : State} (h : Steady s t) : Carries s t where
  cfg := h.cfg
  variant _ := h.variant
  caps _ := h.caps
  dataReg := h.dataReg
  lengthReg := h.lengthReg
  baudReg := h.baudReg
  refused := h.refused
  undefinedStays := h.undefinedStays
  trace := h.trace

/-- What INIT carries over, which holds its variant and profile before it runs. -/
theorem Carries.of_constructedAs {s t : State} {v : HardwareVariant} (hs : s.phase = .unconstructed)
    (h : Steady (s.constructedAs v) t) : Carries s t where
  cfg := h.cfg
  variant hne := absurd hs hne
  caps hne := absurd hs hne
  dataReg := h.dataReg
  lengthReg := h.lengthReg
  baudReg := h.baudReg
  refused := h.refused
  undefinedStays := h.undefinedStays
  trace := h.trace

/-- What is carried over after a request has been taken up was carried over before. -/
theorem Carries.of_taken {s t : State} {rest : List (List Byte)} (h : Carries (s.taken rest) t) : Carries s t := by
  have hturn := engineTurn_quiet s
  obtain ⟨tr, htr⟩ := hturn.trace
  obtain ⟨tr', htr'⟩ := h.trace
  have hphase : s.phase ≠ .unconstructed → (s.taken rest).phase ≠ .unconstructed := fun hne => taken_phase s rest ▸ hne
  exact {
    cfg := h.cfg.trans hturn.cfg
    variant := fun hne => (h.variant (hphase hne)).trans hturn.variant
    caps := fun hne => (h.caps (hphase hne)).trans hturn.caps
    dataReg := h.dataReg.trans hturn.dataReg
    lengthReg := h.lengthReg.trans hturn.lengthReg
    baudReg := h.baudReg.trans hturn.baudReg
    refused := fun hr => h.refused (hturn.refused hr)
    undefinedStays := fun he => h.undefinedStays (hturn.undefinedStays he)
    trace := ⟨tr ++ tr', by rw [htr', State.taken, htr, List.append_assoc]⟩ }

/-! The two kinds of requests -/

/-- An unknown variant ends INIT before it constructs anything (R233). -/
theorem exec_init_unknown {s : State} {c : Nat} (hs : s.phase = .unconstructed) (hc : HardwareVariant.ofCode c = none) :
    exec (.init c) s = .next (s.raised (.init c) (.unsupportedVariant c)) := by
  simp only [exec, execInit, hs, hc]

/-- The outcomes of a request: an operation but INIT runs; INIT changes nothing, is refused, raises an error, or runs on the
block that holds variant and profile. -/
theorem exec_cases {i : Instr} {s t : State} (h : exec i s = .next t) :
    ((∀ c, i ≠ .init c) ∧ request i (bodyOf i) s = .next t) ∨ t = s ∨ (∃ r, t = s.refuse r) ∨
    s.phase = .unconstructed ∧ ∃ c, i = .init c ∧ ((∃ e, t = s.raised i e) ∨
      ∃ v, HardwareVariant.ofCode c = some v ∧ request i (initBody v) (s.constructedAs v) = .next t) := by
  by_cases hi : ∀ c, i ≠ .init c
  · exact .inl ⟨hi, (exec_eq_request hi s).symm.trans h⟩
  · push Not at hi
    obtain ⟨c, rfl⟩ := hi
    cases hp : s.phase with
    | running op pc => exact .inr (.inl (Host.Outcome.next.inj (h.symm.trans (exec_running hp _))))
    | idle => exact .inr (.inr (.inl ⟨_, Host.Outcome.next.inj (h.symm.trans (exec_init_constructed hp c))⟩))
    | unconstructed =>
      refine .inr (.inr (.inr ⟨rfl, c, rfl, ?_⟩))
      cases hv : HardwareVariant.ofCode c with
      | none => exact .inl ⟨_, Host.Outcome.next.inj (h.symm.trans (exec_init_unknown hp hv))⟩
      | some v => exact .inr ⟨v, rfl, (exec_init_eq_request hp hv).symm.trans h⟩

theorem exec_carries {i : Instr} {s t : State} (h : exec i s = .next t) : Carries s t := by
  obtain ⟨-, hrun⟩ | rfl | ⟨r, rfl⟩ | ⟨hs, c, -, ⟨e, rfl⟩ | ⟨v, -, hrun⟩⟩ := exec_cases h
  · exact (request_steady hrun).carries
  · exact (Steady.refl t).carries
  · exact (refuse_steady s r).carries
  · exact (raised_steady s i e).carries
  · exact .of_constructedAs hs (request_steady hrun)

/-! The step -/

/-- The four things a step can do. -/
theorem step_cases {s t : State} (h : step s = .next t) :
    (∃ op pc, s.phase = .running op pc ∧ drive (bodyOf op) opFuel s = .next t) ∨
    (s.AtRest ∧ t = s.complete) ∨
    (s.AtRest ∧ ∃ i rest, exec i (s.taken rest) = .next t) ∨
    (s.AtRest ∧ ∃ e rest, t = (s.taken rest).refuse (.request e)) := by
  by_cases hrest : s.AtRest
  · right
    cases hq : s.requests with
    | nil => exact .inl ⟨hrest, (Host.Outcome.next.inj ((step_no_request hrest hq).symm.trans h)).symm⟩
    | cons r rest =>
      cases hd : decode r with
      | ok i => exact .inr (.inl ⟨hrest, i, rest, (step_request hrest hq hd).symm.trans h⟩)
      | error e =>
        exact .inr (.inr ⟨hrest, e, rest, (Host.Outcome.next.inj ((step_undecodable hrest hq hd).symm.trans h)).symm⟩)
  · unfold State.AtRest at hrest
    push Not at hrest
    obtain ⟨op, pc, hrun⟩ := hrest
    exact .inl ⟨op, pc, hrun, (step_running hrun).symm.trans h⟩

theorem step_carries {s t : State} (h : step s = .next t) : Carries s t := by
  obtain ⟨op, pc, -, hdrive⟩ | ⟨-, rfl⟩ | ⟨-, i, rest, hx⟩ | ⟨-, e, rest, rfl⟩ := step_cases h
  · exact (drive_steady hdrive).carries
  · exact (complete_quiet s).toSteady.carries
  · exact (exec_carries hx).of_taken
  · exact (refuse_steady _ _).carries.of_taken

/-- Settles O48: an Undefined engine is among what a step carries over. -/
theorem undefinedPersists : Obligations.UndefinedPersists :=
  fun _ _ hundefined h => (step_carries h).undefinedStays hundefined

/-- Settles O60: each part is among what a step carries over. -/
theorem stepKeepsMarkProfileAndTrace : Obligations.StepKeepsMarkProfileAndTrace := by
  intro s t h
  have hc := step_carries h
  exact ⟨hc.refused, hc.cfg, fun hne => ⟨hc.variant hne, hc.caps hne⟩, hc.dataReg, hc.lengthReg, hc.baudReg, hc.trace⟩

end Sys2Proof.Machine
end

section
/-! The invariant (spec/10_state.md R21, R50; spec/20_memory.md R63): every command keeps the width of IORoute, since only a
payload of that width is admitted, and the form of the slave's register file; construction leaves a variant with its own
profile, and no other operation touches it. -/

namespace Sys2Proof.Machine

/-- The part of the invariant that commands and the engine could break. -/
structure State.Sound (s : State) : Prop where
  routeWidth : s.ioRoute.length = s.cfg.params.ioRouteLen
  slaveForm : ∀ a f, s.bus = .wellBehaved a f → Memory.wf f = true

/-- The part of the invariant that a constructed block keeps as it is. -/
def State.OwnProfile (s : State) : Prop := ∃ v, s.variant = some v ∧ s.caps = some (s.cfg.params.capsOf v)

theorem Steady.ownProfile {s t : State} (h : Steady s t) (hs : s.OwnProfile) : t.OwnProfile := by
  obtain ⟨v, hv, hc⟩ := hs
  exact ⟨v, h.variant.trans hv, by rw [h.caps, h.cfg, hc]⟩

section
variable {s : State} (h : s.Sound)
include h

/-! The engine -/

/-- What changes neither the board, nor IORoute, nor the slave. -/
theorem State.Sound.congr {t : State} (hcfg : t.cfg = s.cfg) (hroute : t.ioRoute = s.ioRoute) (hbus : t.bus = s.bus) :
    t.Sound :=
  ⟨by rw [hcfg, hroute]; exact h.routeWidth, fun a f hb => h.slaveForm a f (hbus.symm.trans hb)⟩

theorem State.Sound.undefineEngine : s.undefineEngine.Sound := ⟨h.routeWidth, nofun⟩

theorem State.Sound.slaveWrite (sla reg : Reg7) (d : Byte) : (s.slaveWrite sla reg d).2.Sound := by
  unfold State.slaveWrite
  split
  · exact h.congr rfl rfl rfl
  · rename_i a f hbus
    split
    · refine ⟨h.routeWidth, fun b g hb => ?_⟩
      cases hb
      exact Memory.wf_write (h.slaveForm a f hbus) reg d
    · exact h

theorem State.Sound.slaveRead (sla reg : Reg7) : (s.slaveRead sla reg).2.Sound := by
  unfold State.slaveRead
  split
  · exact h.congr rfl rfl rfl
  · split <;> exact h

theorem State.Sound.complete : s.complete.Sound := by
  unfold State.complete
  split
  · split
    · exact (h.slaveWrite _ _ _).congr rfl rfl rfl
    · exact (h.slaveRead _ _).congr rfl rfl rfl
  · exact h

theorem State.Sound.engineControlWrite (w : ControlWord) : (s.engineControlWrite w).Sound := by
  unfold State.engineControlWrite
  split
  · exact (h.congr (t := { s with ctlLatch := some w }) rfl rfl rfl).undefineEngine
  · exact (h.congr (t := { s with ctlLatch := some w }) rfl rfl rfl).undefineEngine
  · split
    · split <;> exact h.congr rfl rfl rfl
    · exact h.congr rfl rfl rfl

theorem State.Sound.transmitWrite (b : Byte) : (s.transmitWrite b).Sound := by
  unfold State.transmitWrite
  split
  · exact h.congr rfl rfl rfl
  · exact (h.congr (t := { s with txd := b }) rfl rfl rfl).undefineEngine

/-! The commands -/

theorem State.Sound.readCommand (a n : Nat) : (s.readCommand a n).2.Sound := by
  unfold State.readCommand
  split <;> exact h.congr rfl rfl rfl

/-- An admitted payload for IORoute has its width. -/
theorem State.Sound.store {a : Nat} {v : List Byte} (hv : admitted s.cfg.params a v.length = true) :
    (s.store a v).Sound := by
  unfold State.store
  split
  case h_4 => exact h.engineControlWrite _
  case h_5 => exact h.transmitWrite _
  case h_6 => exact ⟨by simpa using (admitted_iff _ _ _).1 hv, h.slaveForm⟩
  all_goals exact h.congr rfl rfl rfl

/-- An admitted WRITE that fails garbles no more bytes of IORoute than there are. -/
theorem State.Sound.garble {a n : Nat} (hn : admitted s.cfg.params a n = true) : (s.garble a n).Sound := by
  unfold State.garble
  split
  case h_4 => exact ⟨h.routeWidth, nofun⟩
  case h_6 => exact ⟨by simpa [State.noises] using (admitted_iff _ _ _).1 hn, h.slaveForm⟩
  all_goals exact h.congr rfl rfl rfl

theorem State.Sound.writeCommand {a : Nat} {v : List Byte} (hv : admitted s.cfg.params a v.length = true) :
    (s.writeCommand a v).2.Sound := by
  unfold State.writeCommand
  split
  · exact (h.congr (t := s.writing a v false) rfl rfl rfl).garble hv
  · exact (h.congr (t := s.writing a v true) rfl rfl rfl).store hv

/-! The primitives -/

theorem State.Sound.doRead (op : Instr) (pc a n : Nat) : (s.doRead op pc a n).Sound := by
  have hcommand := h.readCommand a n
  unfold State.doRead
  split
  · split <;> rename_i heq <;> rw [heq] at hcommand <;> exact hcommand.congr rfl rfl rfl
  · exact h.congr rfl rfl rfl

theorem State.Sound.doWrite (op : Instr) (pc a : Nat) (v : List Byte) : (s.doWrite op pc a v).Sound := by
  unfold State.doWrite
  split
  · rename_i hv
    have hcommand := h.writeCommand hv
    split
    · split <;> rename_i heq <;> rw [heq] at hcommand <;> exact hcommand.congr rfl rfl rfl
    · exact h.congr rfl rfl rfl
  · exact h.congr rfl rfl rfl

theorem State.Sound.doControl (op : Instr) (pc : Nat) (w : ControlWord) : (s.doControl op pc w).Sound := by
  have hcommand := h.writeCommand (a := 47) (v := w.bytes) rfl
  unfold State.doControl
  split <;> rename_i heq <;> rw [heq] at hcommand <;> exact hcommand.congr rfl rfl rfl

theorem State.Sound.doWait (op : Instr) (pc : Nat) : (s.doWait op pc).Sound := h.complete.congr rfl rfl rfl

theorem State.Sound.doStatus (op : Instr) (pc : Nat) (sla reg : Reg7) : (s.doStatus op pc sla reg).Sound := by
  have hcommand := h.readCommand 47 3
  unfold State.doStatus
  split
  · rename_i heq
    rw [heq] at hcommand
    split <;> exact hcommand.congr rfl rfl rfl
  · rename_i heq
    rw [heq] at hcommand
    exact hcommand.congr rfl rfl rfl

theorem State.Sound.unlessAbandoned (op : Instr) (inside : Bool) {k : State → State}
    (hk : ∀ {u : State}, u.Sound → (k u).Sound) : (s.unlessAbandoned op inside k).Sound := by
  unfold State.unlessAbandoned
  split
  · dsimp only
    split
    · exact ⟨h.routeWidth, nofun⟩
    · exact hk (h.congr rfl rfl rfl)
  · exact hk h

theorem State.Sound.perform {t : State} {op : Instr} {pc : Nat} {a : Act} (hp : perform op pc a s = .next t) :
    t.Sound := by
  cases a with
  | read addr len => cases hp; exact h.doRead op pc addr len
  | write addr v => cases hp; exact h.doWrite op pc addr v
  | control inside w => cases hp; exact h.unlessAbandoned op inside fun hu => hu.doControl op pc w
  | wait inside => cases hp; exact h.unlessAbandoned op inside fun hu => hu.doWait op pc
  | status sla reg => cases hp; exact h.doStatus op pc sla reg
  | emit lock => cases hp; exact h.congr rfl rfl rfl
  | jump k => cases hp; exact h.congr rfl rfl rfl
  | ret r => cases hp; exact h.congr rfl rfl rfl
  | raise e => cases hp; exact h.congr rfl rfl rfl
  | refuse r => cases hp; exact h.congr rfl rfl rfl
  | stale => cases hp

/-! Operations and requests -/

theorem State.Sound.drive {t : State} {body : State → Nat → Act} {n : Nat} (hd : drive body n s = .next t) : t.Sound :=
  drive_keeps (P := State.Sound) (fun hu _ hp => hu.perform hp) h hd

theorem State.Sound.request {t : State} {op : Instr} {body : State → Nat → Act} (hr : request op body s = .next t) :
    t.Sound := by
  unfold Machine.request at hr
  split at hr
  · cases hr; exact h
  · cases hr; exact h.congr rfl rfl rfl
  · exact (h.congr (t := s.accept op) rfl rfl rfl).drive hr

theorem State.Sound.exec {t : State} {i : Instr} (hx : exec i s = .next t) : t.Sound := by
  obtain ⟨-, hrun⟩ | rfl | ⟨r, rfl⟩ | ⟨-, c, -, ⟨e, rfl⟩ | ⟨v, -, hrun⟩⟩ := exec_cases hx
  · exact h.request hrun
  · exact h
  · exact h.congr rfl rfl rfl
  · exact h.congr rfl rfl rfl
  · exact (h.congr (t := s.constructedAs v) rfl rfl rfl).request hrun

theorem State.Sound.taken (rest : List (List Byte)) : (s.taken rest).Sound := by
  have hturn : s.engineTurn.Sound := by
    unfold State.engineTurn
    split
    · dsimp only
      split
      · exact (h.congr (t := { s with engine := s.engine.skip 1 }) rfl rfl rfl).complete
      · exact h.congr rfl rfl rfl
    · exact h
  exact hturn.congr rfl rfl rfl

theorem State.Sound.step {t : State} (hs : step s = .next t) : t.Sound := by
  obtain ⟨op, pc, -, hdrive⟩ | ⟨-, rfl⟩ | ⟨-, i, rest, hx⟩ | ⟨-, e, rest, rfl⟩ := step_cases hs
  · exact h.drive hdrive
  · exact h.complete
  · exact (h.taken rest).exec hx
  · exact (h.taken rest).congr rfl rfl rfl

end

/-! The profile -/

/-- The part of the invariant that says what construction leaves (R21). -/
def State.ProfileSet (s : State) : Prop := s.phase = .unconstructed ∨ s.OwnProfile

theorem State.inv_iff {s : State} : s.Inv ↔ s.Sound ∧ s.ProfileSet :=
  ⟨fun ⟨hroute, hslave, hprofile⟩ => ⟨⟨hroute, hslave⟩, hprofile⟩,
    fun ⟨⟨hroute, hslave⟩, hprofile⟩ => ⟨hroute, hslave, hprofile⟩⟩

/-- An operation that leaves a block that is not constructed so. -/
theorem State.ProfileSet.of_steady {s t : State} (h : s.ProfileSet) (hst : Steady s t)
    (hphase : s.phase = .unconstructed → t.phase = .unconstructed) : t.ProfileSet :=
  h.imp hphase hst.ownProfile

/-- Before construction every request but INIT is refused, INIT fails, or it has set variant and profile. -/
theorem State.ProfileSet.exec {s t : State} (h : s.ProfileSet) {i : Instr} (hx : exec i s = .next t) : t.ProfileSet := by
  obtain ⟨-, hrun⟩ | rfl | ⟨r, rfl⟩ | ⟨hs, c, rfl, ⟨e, rfl⟩ | ⟨v, -, hrun⟩⟩ := exec_cases hx
  · refine h.of_steady (request_steady hrun) fun hs => ?_
    obtain rfl := Host.Outcome.next.inj ((request_unconstructed hs).symm.trans hrun)
    exact hs
  · exact h
  · exact h.of_steady (refuse_steady s r) id
  · exact .inl rfl
  · exact .inr ((request_steady hrun).ownProfile ⟨v, rfl, rfl⟩)

theorem State.ProfileSet.taken {s : State} (h : s.ProfileSet) (rest : List (List Byte)) : (s.taken rest).ProfileSet :=
  h.imp (taken_phase s rest).trans (engineTurn_quiet s).ownProfile

theorem State.ProfileSet.step {s t : State} (h : s.ProfileSet) (hs : step s = .next t) : t.ProfileSet := by
  obtain ⟨op, pc, hp, hdrive⟩ | ⟨-, rfl⟩ | ⟨-, i, rest, hx⟩ | ⟨-, e, rest, rfl⟩ := step_cases hs
  · exact h.of_steady (drive_steady hdrive) fun hno => by rw [hp] at hno; cases hno
  · exact h.of_steady (complete_quiet s).toSteady (complete_quiet s).phase.trans
  · exact (h.taken rest).exec hx
  · exact (h.taken rest).of_steady (refuse_steady _ _) id

/-- Settles O57: each part of the invariant is kept by every step. -/
theorem stepKeepsTheInvariant : Obligations.StepKeepsTheInvariant := by
  intro s t hinv h
  obtain ⟨hsound, hprofile⟩ := State.inv_iff.1 hinv
  exact State.inv_iff.2 ⟨hsound.step h, hprofile.step h⟩

end Sys2Proof.Machine
end

section
/-! The shape of an operation's body (spec/10_state.md R22, R27), step by step: what `Bounded` asks of a body is asked here of the
one primitive at a step, so that a check or a use of `buf` in front of a primitive is dealt with once. -/

namespace Sys2Proof.Machine

/-- Primitive a at step pc, in state u, is as `Bounded` asks. -/
structure Act.Fits (needsBuf : Nat → Bool) (last : Nat) (u : State) (pc : Nat) (a : Act) : Prop where
  fresh : (needsBuf pc = true → u.buf.isSome = true) → a ≠ .stale
  ends : last ≤ pc → a.ends = true ∨ a = .stale
  forward : pc < a.target pc
  read : needsBuf (a.target pc) = true → needsBuf pc = true ∨ a.reads = true ∨ a.ends = true

theorem Bounded.of_fits {body : State → Nat → Act} {needsBuf : Nat → Bool} {last : Nat}
    (h : ∀ u pc, (body u pc).Fits needsBuf last u pc) : Bounded body needsBuf last :=
  ⟨fun u pc => (h u pc).fresh, fun u pc => (h u pc).ends, fun u pc => (h u pc).forward, fun u pc => (h u pc).read⟩

/-- The same, of a primitive that emits nothing. -/
structure Act.Regular (needsBuf : Nat → Bool) (last : Nat) (u : State) (pc : Nat) (a : Act) : Prop
    extends Act.Fits needsBuf last u pc a where
  silent : ∀ lock, a ≠ .emit lock

/-! Checks -/

/-- P holds of the two primitives a check can answer with (R90, R213). -/
structure Absorbs (P : Act → Prop) : Prop where
  raise : ∀ e, P (.raise e)
  refuse : ∀ r, P (.refuse r)

section
variable {P : Act → Prop} (h : Absorbs P)
include h

theorem Absorbs.boolArg {n : Nat} {k : Bool → Act} (hk : ∀ b, P (k b)) : P (boolArg n k) := by
  unfold Machine.boolArg
  split
  · exact hk false
  · exact hk true
  · exact h.refuse _

theorem Absorbs.selector {α : Type} {decoded : Option α} {code : Nat} {k : α → Act} (hk : ∀ x, P (k x)) :
    P (selector decoded code k) := by
  unfold Machine.selector
  split
  · exact hk _
  · exact h.raise _

theorem Absorbs.allowed {ok : Bool} {args : List Nat} {a : Act} (ha : P a) : P (allowed ok args a) := by
  unfold Machine.allowed
  split
  · exact ha
  · exact h.raise _

theorem Absorbs.i2cNumbers {reg sla : Nat} {k : Reg7 → Reg7 → Act} (hk : ∀ r a, P (k r a)) : P (i2cNumbers reg sla k) := by
  unfold Machine.i2cNumbers
  split
  · exact h.refuse _
  · exact hk _ _

end

section
variable {needsBuf : Nat → Bool} {last : Nat} {u : State} {pc : Nat}

/-! Primitives that fit -/

theorem Act.fits_of_ends {a : Act} (h : a.ends = true) : a.Fits needsBuf last u pc where
  fresh _ hstale := by rw [hstale] at h; cases h
  ends _ := .inl h
  forward := by cases a <;> first | exact Nat.lt_succ_self pc | cases h
  read _ := .inr (.inr h)

theorem Act.regular_of_ends {a : Act} (h : a.ends = true) : a.Regular needsBuf last u pc where
  toFits := fits_of_ends h
  silent lock hemit := by rw [hemit] at h; cases h

theorem absorbs_regular : Absorbs (Act.Regular needsBuf last u pc) :=
  ⟨fun _ => Act.regular_of_ends rfl, fun _ => Act.regular_of_ends rfl⟩

theorem regular_stale (hneeds : needsBuf pc = true) (hbuf : u.buf = none) : Act.Regular needsBuf last u pc .stale where
  fresh h := by simpa [hbuf] using h hneeds
  ends _ := .inr rfl
  forward := Nat.lt_succ_self pc
  read _ := .inl hneeds
  silent := nofun

/-- A use of `buf`: stale, or what is done with the bytes. -/
theorem withBuf_of {P : Act → Prop} {k : List Byte → Act} (hstale : u.buf = none → P .stale) (hk : ∀ bs, P (k bs)) :
    P (withBuf u k) := by
  unfold withBuf
  split
  · exact hk _
  · exact hstale ‹_›

/-- A use of `buf` at a step that needs it. -/
theorem regular_withBuf (hneeds : needsBuf pc = true) {k : List Byte → Act}
    (hk : ∀ bs, (k bs).Regular needsBuf last u pc) : (withBuf u k).Regular needsBuf last u pc :=
  withBuf_of (regular_stale hneeds) hk

/-- A primitive that goes on to the next step, which needs `buf` only if this one reads or needs it too. -/
theorem regular_of_plain {a : Act} (ha : a.plain = true) (hpc : pc < last)
    (hbuf : needsBuf (pc + 1) = true → needsBuf pc = true ∨ a.reads = true) : a.Regular needsBuf last u pc := by
  have htarget : a.target pc = pc + 1 := by cases a <;> first | rfl | cases ha
  exact {
    fresh := fun _ hstale => by rw [hstale] at ha; cases ha
    ends := fun hle => absurd hpc (Nat.not_lt.2 hle)
    forward := htarget ▸ Nat.lt_succ_self pc
    read := fun h => (hbuf (htarget ▸ h)).imp id .inl
    silent := fun lock hemit => by rw [hemit] at ha; cases ha }

/-- A jump forward to a step that needs `buf` only if this one does. -/
theorem regular_jump {k : Nat} (hk : pc < k) (hpc : pc < last) (hbuf : needsBuf k = true → needsBuf pc = true) :
    Act.Regular needsBuf last u pc (.jump k) where
  fresh _ := nofun
  ends hle := absurd hpc (Nat.not_lt.2 hle)
  forward := hk
  read h := .inl (hbuf h)
  silent := nofun

/-! Byte operations in a body -/

/-- A step of a byte read: the step after it needs `buf` only from the data READ on. -/
theorem regular_i2cReadPrim {sla reg : Reg7} {k : Nat} (hpc : pc < last)
    (hbuf : needsBuf (pc + 1) = true → needsBuf pc = true ∨ 7 ≤ k) :
    (i2cReadPrim sla reg k).Regular needsBuf last u pc := by
  refine regular_of_plain (i2cReadPrim_plain sla reg k) hpc fun h => (hbuf h).imp id fun hk => ?_
  obtain ⟨j, rfl⟩ := Nat.exists_eq_add_of_le' hk
  rfl

/-- A step of a byte write: the data WRITE, or a primitive that goes on. -/
theorem regular_i2cWritePrim {sla reg : Reg7} {data : Act} {k : Nat} (hpc : pc < last)
    (hdata : k = 0 → data.Regular needsBuf last u pc)
    (hbuf : needsBuf (pc + 1) = true → needsBuf pc = true ∨ 7 ≤ k) :
    (i2cWritePrim sla reg data k).Regular needsBuf last u pc := by
  cases k with
  | zero => exact hdata rfl
  | succ k =>
    rw [i2cWritePrim_data (a' := dataWrite 0) (Nat.succ_pos k)]
    refine regular_of_plain (i2cWritePrim_plain sla reg 0 _) hpc fun h => (hbuf h).imp id fun hk => ?_
    obtain ⟨j, rfl⟩ := Nat.exists_eq_add_of_le' (Nat.le_of_succ_le_succ hk)
    rfl

theorem regular_dataWrite (d : Byte) (hpc : pc < last) (hbuf : needsBuf (pc + 1) = true → needsBuf pc = true) :
    (dataWrite d).Regular needsBuf last u pc :=
  regular_of_plain rfl hpc fun h => .inl (hbuf h)

theorem regular_patchedWrite {f : Byte → Byte} (hpc : pc < last) (hneeds : needsBuf pc = true) :
    (patchedWrite u f).Regular needsBuf last u pc :=
  regular_withBuf hneeds fun _ => regular_dataWrite _ hpc fun _ => hneeds

theorem regular_changedWrite {f : Byte → Byte} {skip : Nat} (hpc : pc < last) (hneeds : needsBuf pc = true)
    (hskip : pc < skip) : (changedWrite u f skip).Regular needsBuf last u pc := by
  refine regular_withBuf hneeds fun bs => ?_
  split
  · exact regular_jump hskip hpc fun _ => hneeds
  · exact regular_dataWrite _ hpc fun _ => hneeds

end

/-! Bodies -/

/-- A body that is regular at each step, and begins with a step that needs no `buf`. -/
structure RegularBody (body : State → Nat → Act) (needsBuf : Nat → Bool) (last : Nat) : Prop where
  steps : ∀ u pc, (body u pc).Regular needsBuf last u pc
  start : needsBuf 0 = false
  inTime : last < opFuel

section
variable {body : State → Nat → Act} {needsBuf : Nat → Bool} {last : Nat} (h : RegularBody body needsBuf last)
include h

theorem RegularBody.request {op : Instr} {s : State} (hs : s.AtRest) : ∃ t, request op body s = .next t ∧ t.AtRest :=
  (Bounded.of_fits fun u pc => (h.steps u pc).toFits).request h.start h.inTime op s hs

theorem RegularBody.request_events {op : Instr} {s t : State} (hr : Machine.request op body s = .next t) :
    t.events = s.events :=
  Machine.request_events (fun u pc => (h.steps u pc).silent) hr

end

/-- From step k on `buf` is needed. -/
def fromStep (k pc : Nat) : Bool := decide (k ≤ pc)

theorem fromStep_add (k j : Nat) : fromStep k (k + j) = true := decide_eq_true (Nat.le_add_right k j)

/-! The operations on registers -/

/-- One READ, then the answer the bytes read give. -/
def queryShape (a n : Nat) (answer : List Byte → Result) (u : State) (pc : Nat) : Act :=
  match pc with
  | 0 => .read a n
  | _ => withBuf u fun buf => .ret (answer buf)

/-- One READ, then what `edit` makes of the bytes read, then no result. -/
def editShape (a n : Nat) (edit : List Byte → Act) (u : State) (pc : Nat) : Act :=
  match pc with
  | 0 => .read a n
  | 1 => withBuf u edit
  | _ => .ret .nothing

section
variable {u : State} {a n : Nat}

theorem queryShape_regular {answer : List Byte → Result} : ∀ {pc : Nat},
    (queryShape a n answer u pc).Regular (fromStep 1) 2 u pc
  | 0 => regular_of_plain rfl (by decide) fun _ => .inr rfl
  | j + 1 => regular_withBuf (Nat.add_comm 1 j ▸ fromStep_add 1 j) fun _ => Act.regular_of_ends rfl

theorem editShape_regular {edit : List Byte → Act} (hedit : ∀ bs, (edit bs).Regular (fromStep 1) 2 u 1) : ∀ {pc : Nat},
    (editShape a n edit u pc).Regular (fromStep 1) 2 u pc
  | 0 => regular_of_plain rfl (by decide) fun _ => .inr rfl
  | 1 => regular_withBuf rfl hedit
  | _ + 2 => Act.regular_of_ends rfl

/-- An edit whose bytes are always written back. -/
theorem editShape_write_regular {edit : List Byte → List Byte} {pc : Nat} :
    (editShape a n (fun bs => .write a (edit bs)) u pc).Regular (fromStep 1) 2 u pc :=
  editShape_regular fun _ => regular_of_plain rfl (by decide) fun _ => .inl rfl

end

theorem readBody_regular (addr len : Nat) : RegularBody (readBody addr len) (fromStep 1) 2 where
  steps _ _ := queryShape_regular
  start := rfl
  inTime := by decide

theorem writeBody_regular (addr : Nat) (payload : List Byte) : RegularBody (writeBody addr payload) (fun _ => false) 1 where
  steps
    | _, 0 => regular_of_plain rfl (by decide) nofun
    | _, _ + 1 => Act.regular_of_ends rfl
  start := rfl
  inTime := by decide

theorem fieldSetBody_regular (addr byteOff bitOff width inverted value : Nat) :
    RegularBody (fieldSetBody addr byteOff bitOff width inverted value) (fromStep 1) 2 where
  steps u pc := by
    refine absorbs_regular.boolArg fun inv => ?_
    split
    · exact absorbs_regular.allowed editShape_write_regular
    · exact absorbs_regular.refuse _
  start := rfl
  inTime := by decide

theorem fieldGetBody_regular (addr byteOff bitOff width inverted : Nat) :
    RegularBody (fieldGetBody addr byteOff bitOff width inverted) (fromStep 1) 2 where
  steps u pc := by
    refine absorbs_regular.boolArg fun inv => ?_
    split
    · exact queryShape_regular
    · exact absorbs_regular.refuse _
  start := rfl
  inTime := by decide

theorem setPinBody_regular (pin enabled : Nat) : RegularBody (setPinBody pin enabled) (fromStep 1) 2 where
  steps _ _ := absorbs_regular.boolArg fun _ => absorbs_regular.selector fun _ => editShape_write_regular
  start := rfl
  inTime := by decide

theorem getPinBody_regular (pin : Nat) : RegularBody (getPinBody pin) (fromStep 1) 2 where
  steps _ _ := absorbs_regular.selector fun _ => queryShape_regular
  start := rfl
  inTime := by decide

theorem setCollectionModeBody_regular (mode : Nat) : RegularBody (setCollectionModeBody mode) (fromStep 1) 2 where
  steps _ _ := absorbs_regular.selector fun _ => editShape_write_regular
  start := rfl
  inTime := by decide

theorem getCollectionModeBody_regular : RegularBody getCollectionModeBody (fromStep 1) 2 where
  steps _ _ := queryShape_regular
  start := rfl
  inTime := by decide

theorem setIoRouteBody_regular (pinIndex mode : Nat) : RegularBody (setIoRouteBody pinIndex mode) (fromStep 1) 2 where
  steps _ _ := absorbs_regular.selector fun _ => absorbs_regular.selector fun _ =>
    absorbs_regular.allowed editShape_write_regular
  start := rfl
  inTime := by decide

theorem getIoRouteBody_regular (pinIndex : Nat) : RegularBody (getIoRouteBody pinIndex) (fromStep 1) 2 where
  steps _ _ := absorbs_regular.selector fun _ => queryShape_regular
  start := rfl
  inTime := by decide

theorem setRegularGpioBody_regular (gpioPin state : Nat) (p : TargetPin) (st : GPIOState) (u : State) (pc : Nat) :
    (setRegularGpioBody gpioPin state p st u pc).Regular (fromStep 1) 2 u pc := by
  refine absorbs_regular.allowed (editShape_regular fun bs => ?_)
  split
  · exact regular_of_plain rfl (by decide) fun _ => .inl rfl
  · exact absorbs_regular.raise _

theorem setGpioStateBody_regular (gpioPin state : Nat) : RegularBody (setGpioStateBody gpioPin state) (fromStep 1) 2 where
  steps u pc := by
    refine absorbs_regular.selector fun pin => absorbs_regular.selector fun st => ?_
    cases pin with
    | regular p => exact setRegularGpioBody_regular gpioPin state p st u pc
    | special q => exact editShape_write_regular
  start := rfl
  inTime := by decide

theorem getGpioStateBody_regular (gpioPin : Nat) : RegularBody (getGpioStateBody gpioPin) (fromStep 1) 2 where
  steps _ _ := absorbs_regular.selector fun _ => queryShape_regular
  start := rfl
  inTime := by decide

theorem setPowerStateBody_regular (enabled : Nat) : RegularBody (setPowerStateBody enabled) (fromStep 1) 2 where
  steps _ _ := absorbs_regular.boolArg fun _ => editShape_write_regular
  start := rfl
  inTime := by decide

theorem getPowerStateBody_regular : RegularBody getPowerStateBody (fromStep 1) 2 where
  steps _ _ := queryShape_regular
  start := rfl
  inTime := by decide

theorem setGlitchOutEnBody_regular (channel enabled : Nat) :
    RegularBody (setGlitchOutEnBody channel enabled) (fromStep 1) 2 where
  steps _ _ := absorbs_regular.boolArg fun _ => absorbs_regular.selector fun _ =>
    absorbs_regular.allowed editShape_write_regular
  start := rfl
  inTime := by decide

theorem getGlitchOutEnBody_regular (channel : Nat) : RegularBody (getGlitchOutEnBody channel) (fromStep 1) 2 where
  steps _ _ := absorbs_regular.selector fun _ => queryShape_regular
  start := rfl
  inTime := by decide

theorem setClockSourceBody_regular (source : Nat) : RegularBody (setClockSourceBody source) (fromStep 1) 2 where
  steps _ _ := absorbs_regular.selector fun _ => absorbs_regular.allowed editShape_write_regular
  start := rfl
  inTime := by decide

theorem getClockSourceBody_regular : RegularBody getClockSourceBody (fromStep 1) 2 where
  steps _ _ := queryShape_regular
  start := rfl
  inTime := by decide

theorem setTargetClockOutBody_regular (mode : Nat) : RegularBody (setTargetClockOutBody mode) (fromStep 1) 2 where
  steps _ _ := absorbs_regular.selector fun _ => absorbs_regular.allowed editShape_write_regular
  start := rfl
  inTime := by decide

theorem getTargetClockOutBody_regular : RegularBody getTargetClockOutBody (fromStep 1) 2 where
  steps _ _ := queryShape_regular
  start := rfl
  inTime := by decide

theorem setTrigoutFpaBody_regular (enabled : Nat) : RegularBody (setTrigoutFpaBody enabled) (fromStep 1) 2 where
  steps _ _ := absorbs_regular.boolArg fun _ => absorbs_regular.allowed editShape_write_regular
  start := rfl
  inTime := by decide

theorem getTrigoutFpaBody_regular : RegularBody getTrigoutFpaBody (fromStep 1) 2 where
  steps _ _ := absorbs_regular.allowed queryShape_regular
  start := rfl
  inTime := by decide

theorem getTriggerModuleBody_regular : RegularBody getTriggerModuleBody (fromStep 1) 2 where
  steps _ _ := queryShape_regular
  start := rfl
  inTime := by decide

theorem initBody_regular (v : HardwareVariant) : RegularBody (initBody v) (fromStep 1) 2 where
  steps u pc := by
    obtain h | h := initBody_cases v u pc <;> rw [h]
    · exact (setClockSourceBody_regular _).steps u pc
    · exact Act.regular_of_ends rfl
  start := rfl
  inTime := by decide

/-! The operations over I2C -/

/-- A byte read of eight steps, then the answer its byte gives. -/
theorem regular_i2cReadThen {u : State} {pc : Nat} {sla reg : Reg7} {answer : List Byte → Result} :
    Act.Regular (fromStep 8) 8 u pc
      (if pc < 8 then i2cReadPrim sla reg pc else withBuf u fun buf => .ret (answer buf)) := by
  split
  · exact regular_i2cReadPrim ‹_› fun h => .inr (by simpa [fromStep] using h)
  · exact regular_withBuf (decide_eq_true (Nat.le_of_not_lt ‹_›)) fun _ => Act.regular_of_ends rfl

theorem i2cReadByteBody_regular (reg sla : Nat) : RegularBody (i2cReadByteBody reg sla) (fromStep 8) 8 where
  steps _ _ := absorbs_regular.i2cNumbers fun _ _ => regular_i2cReadThen
  start := rfl
  inTime := by decide

theorem pllIsPresentBody_regular : RegularBody pllIsPresentBody (fromStep 8) 8 where
  steps _ _ := regular_i2cReadThen
  start := rfl
  inTime := by decide

/-- A byte write of eight steps, then no result. -/
theorem regular_i2cWriteThen {u : State} {pc : Nat} {sla reg : Reg7} {d : Byte} :
    Act.Regular (fun _ => false) 8 u pc (if pc < 8 then i2cWritePrim sla reg (dataWrite d) pc else .ret .nothing) := by
  split
  · exact regular_i2cWritePrim ‹_› (fun _ => regular_dataWrite d ‹_› id) nofun
  · exact Act.regular_of_ends rfl

theorem i2cWriteByteBody_regular (reg : Nat) (d : Byte) (sla : Nat) :
    RegularBody (i2cWriteByteBody reg d sla) (fun _ => false) 8 where
  steps _ _ := absorbs_regular.i2cNumbers fun _ _ => regular_i2cWriteThen
  start := rfl
  inTime := by decide

theorem pllSetupOutputBody_regular (outNum invert enabled divSource slewRate : Nat) :
    RegularBody (pllSetupOutputBody outNum invert enabled divSource slewRate) (fun _ => false) 8 where
  steps u pc := by
    refine absorbs_regular.boolArg fun inv => absorbs_regular.boolArg fun on => ?_
    dsimp only
    split
    · exact absorbs_regular.refuse _
    · exact absorbs_regular.allowed regular_i2cWriteThen
  start := rfl
  inTime := by decide

theorem pllSetupPllBody_regular (n m bypass highspeed num : Nat) :
    RegularBody (pllSetupPllBody n m bypass highspeed num) (fun pc => pc == 24) 32 where
  steps u pc := by
    refine absorbs_regular.boolArg fun by_ => absorbs_regular.boolArg fun hs => ?_
    dsimp only
    split
    · exact absorbs_regular.refuse _
    refine absorbs_regular.allowed ?_
    split_ifs with h8 h16 h24 h32
    · exact regular_i2cWritePrim (by omega) (fun _ => regular_dataWrite _ (by omega) (by simp; omega)) (by simp; omega)
    · exact regular_i2cWritePrim (by omega) (fun _ => regular_dataWrite _ (by omega) (by simp; omega)) (by simp; omega)
    · exact regular_i2cReadPrim (by omega) (by simp; omega)
    · exact regular_i2cWritePrim (by omega) (fun h0 => regular_patchedWrite (by omega) (by simp; omega)) (by simp; omega)
    · exact Act.regular_of_ends rfl
  start := rfl
  inTime := by decide

theorem pllSetupDividerBody_regular (setting clockSourceId divNum : Nat) :
    RegularBody (pllSetupDividerBody setting clockSourceId divNum) (fun pc => pc == 16) 24 where
  steps u pc := by
    unfold pllSetupDividerBody
    dsimp only
    split
    · exact absorbs_regular.refuse _
    refine absorbs_regular.allowed (absorbs_regular.allowed ?_)
    split_ifs with h8 h16 hchange h24
    · exact regular_i2cWritePrim (by omega) (fun _ => regular_dataWrite _ (by omega) (by simp; omega)) (by simp; omega)
    · exact regular_i2cReadPrim (by omega) (by simp; omega)
    · exact regular_changedWrite (f := pllSourceByte u.cfg.params.pll divNum clockSourceId) (by omega) (by simp [hchange])
        (by omega)
    · exact regular_i2cWritePrim (by omega) (fun _ => by omega) (by simp; omega)
    · exact Act.regular_of_ends rfl
  start := rfl
  inTime := by decide

theorem pllSetupClockSourceBody_regular (differential useIN0 useIN1 : Nat) :
    RegularBody (pllSetupClockSourceBody differential useIN0 useIN1) (fun pc => pc == 8 || pc == 24) 32 where
  steps u pc := by
    refine absorbs_regular.boolArg fun diff => absorbs_regular.boolArg fun in0 => absorbs_regular.boolArg fun in1 => ?_
    refine absorbs_regular.allowed ?_
    split_ifs with hfirst hcond h8 h16 h24 hchange h32
    · exact regular_i2cReadPrim (by omega) (by simp [hfirst])
    · exact regular_jump (by omega) (by omega) nofun
    · exact regular_i2cReadPrim (by omega) (by simp; omega)
    · exact regular_i2cWritePrim (by omega) (fun h0 => regular_patchedWrite (by omega) (by simp; omega)) (by simp; omega)
    · exact regular_i2cReadPrim (by omega) (by simp; omega)
    · exact regular_changedWrite (f := pllCs2Byte u.cfg.params.pll diff) (by omega) (by simp [hchange]) (by omega)
    · exact regular_i2cWritePrim (by omega) (fun _ => by omega) (by simp; omega)
    · exact Act.regular_of_ends rfl
  start := rfl
  inTime := by decide

/-! Every operation but SET_TRIGGER_MODULE and INIT -/

/-- The body of every operation but the two that have a treatment of their own is regular. -/
theorem bodyOf_regular {i : Instr} (ht : ∀ m, i ≠ .setTriggerModule m) (hi : ∀ c, i ≠ .init c) :
    ∃ needsBuf last, RegularBody (bodyOf i) needsBuf last := by
  cases i with
  | setTriggerModule m => exact absurd rfl (ht m)
  | init c => exact absurd rfl (hi c)
  | read addr len => exact ⟨_, _, readBody_regular addr len⟩
  | write addr payload => exact ⟨_, _, writeBody_regular addr payload⟩
  | fieldSet addr byteOff bitOff width inverted value => exact ⟨_, _, fieldSetBody_regular ..⟩
  | fieldGet addr byteOff bitOff width inverted => exact ⟨_, _, fieldGetBody_regular ..⟩
  | setPin pin enabled => exact ⟨_, _, setPinBody_regular ..⟩
  | getPin pin => exact ⟨_, _, getPinBody_regular ..⟩
  | setCollectionMode mode => exact ⟨_, _, setCollectionModeBody_regular ..⟩
  | getCollectionMode => exact ⟨_, _, getCollectionModeBody_regular⟩
  | setIoRoute pinIndex mode => exact ⟨_, _, setIoRouteBody_regular ..⟩
  | getIoRoute pinIndex => exact ⟨_, _, getIoRouteBody_regular ..⟩
  | setGpioState gpioPin state => exact ⟨_, _, setGpioStateBody_regular ..⟩
  | getGpioState gpioPin => exact ⟨_, _, getGpioStateBody_regular ..⟩
  | setPowerState enabled => exact ⟨_, _, setPowerStateBody_regular ..⟩
  | getPowerState => exact ⟨_, _, getPowerStateBody_regular⟩
  | setGlitchOutEn channel enabled => exact ⟨_, _, setGlitchOutEnBody_regular ..⟩
  | getGlitchOutEn channel => exact ⟨_, _, getGlitchOutEnBody_regular ..⟩
  | setClockSource source => exact ⟨_, _, setClockSourceBody_regular ..⟩
  | getClockSource => exact ⟨_, _, getClockSourceBody_regular⟩
  | setTargetClockOut mode => exact ⟨_, _, setTargetClockOutBody_regular ..⟩
  | getTargetClockOut => exact ⟨_, _, getTargetClockOutBody_regular⟩
  | setTrigoutFpa enabled => exact ⟨_, _, setTrigoutFpaBody_regular ..⟩
  | getTrigoutFpa => exact ⟨_, _, getTrigoutFpaBody_regular⟩
  | getTriggerModule => exact ⟨_, _, getTriggerModuleBody_regular⟩
  | i2cReadByte reg sla => exact ⟨_, _, i2cReadByteBody_regular ..⟩
  | i2cWriteByte reg data sla => exact ⟨_, _, i2cWriteByteBody_regular ..⟩
  | pllIsPresent => exact ⟨_, _, pllIsPresentBody_regular⟩
  | pllSetupPll n m bypass highspeed num => exact ⟨_, _, pllSetupPllBody_regular ..⟩
  | pllSetupDivider setting clockSourceId divNum => exact ⟨_, _, pllSetupDividerBody_regular ..⟩
  | pllSetupOutput outNum invert enabled divSource slewRate => exact ⟨_, _, pllSetupOutputBody_regular ..⟩
  | pllSetupClockSource differential useIN0 useIN1 => exact ⟨_, _, pllSetupClockSourceBody_regular ..⟩

end Sys2Proof.Machine
end

section
/-! SET_TRIGGER_MODULE (spec/44_trigger_module.md R155) runs to its end and emits at one step: its body's shape depends on the
board's event policy, which an operation leaves alone. -/

namespace Sys2Proof.Machine

/-- The step at which SET_TRIGGER_MODULE emits, where it does. -/
def emitStep : EdgeFirePolicy → Nat
  | .always => 0
  | .onChange => 1

/-- The steps at which SET_TRIGGER_MODULE uses `buf`. -/
def moduleNeedsBuf : EdgeFirePolicy → Nat → Bool
  | .always, pc => pc == 2
  | .onChange, pc => pc == 1 || pc == 2

theorem trigModuleWrite_regular {needsBuf : Nat → Bool} {u : State} (m : TriggerModule) (h2 : needsBuf 2 = true) :
    (trigModuleWrite u m).Regular needsBuf 3 u 2 :=
  regular_withBuf h2 fun _ => regular_of_plain rfl (by decide) fun _ => .inl h2

/-- What a step of SET_TRIGGER_MODULE is: it fits, and emits only at the policy's step. -/
structure ModuleStep (p : EdgeFirePolicy) (u : State) (pc : Nat) (a : Act) : Prop where
  fits : a.Fits (moduleNeedsBuf p) 3 u pc
  emits : ∀ lock, a = .emit lock → pc = emitStep p

theorem Act.Regular.moduleStep {p : EdgeFirePolicy} {u : State} {pc : Nat} {a : Act}
    (h : a.Regular (moduleNeedsBuf p) 3 u pc) : ModuleStep p u pc a :=
  ⟨h.toFits, fun lock hemit => absurd hemit (h.silent lock)⟩

theorem absorbs_moduleStep {p : EdgeFirePolicy} {u : State} {pc : Nat} : Absorbs (ModuleStep p u pc) :=
  ⟨fun _ => (Act.regular_of_ends rfl).moduleStep, fun _ => (Act.regular_of_ends rfl).moduleStep⟩

/-- The event, at a step that does not need `buf` for the next one anew. -/
theorem moduleStep_emit {p : EdgeFirePolicy} {u : State} (lock : Bool)
    (hbuf : moduleNeedsBuf p (emitStep p + 1) = true → moduleNeedsBuf p (emitStep p) = true) :
    ModuleStep p u (emitStep p) (.emit lock) where
  fits := {
    fresh := fun _ => nofun
    ends := fun h => by cases p <;> exact absurd h (by decide)
    forward := Nat.lt_succ_self _
    read := fun h => .inl (hbuf h) }
  emits _ _ := rfl

theorem setTriggerModuleBody_step (module : Nat) (u : State) (pc : Nat) :
    ModuleStep u.cfg.params.edgeFirePolicy u pc (setTriggerModuleBody module u pc) := by
  refine absorbs_moduleStep.selector fun m => absorbs_moduleStep.allowed ?_
  split
  · rename_i hp
    rw [hp]
    match pc with
    | 0 => exact moduleStep_emit (p := .always) _ (by decide)
    | 1 => exact (regular_of_plain rfl (by decide) fun _ => .inr rfl).moduleStep
    | 2 => exact (trigModuleWrite_regular m rfl).moduleStep
    | _ + 3 => exact (Act.regular_of_ends rfl).moduleStep
  · rename_i hp
    rw [hp]
    match pc with
    | 0 => exact (regular_of_plain rfl (by decide) fun _ => .inr rfl).moduleStep
    | 1 =>
      refine withBuf_of (fun hbuf => (regular_stale rfl hbuf).moduleStep) fun bs => ?_
      split
      · exact (regular_jump (by decide) (by decide) fun _ => rfl).moduleStep
      · exact moduleStep_emit (p := .onChange) _ fun _ => rfl
    | 2 => exact (trigModuleWrite_regular m rfl).moduleStep
    | _ + 3 => exact (Act.regular_of_ends rfl).moduleStep

/-- Bodies that are the same on the board of s do the same from s. -/
theorem drive_congr {b b' : State → Nat → Act} {c : Board} (h : ∀ u pc, u.cfg = c → b u pc = b' u pc) (n : Nat) (s : State)
    (hs : s.cfg = c) : drive b n s = drive b' n s := by
  induction n generalizing s with
  | zero => rfl
  | succ n ih =>
    unfold drive
    split
    · rename_i op pc hp
      rw [← h s pc hs]
      cases hnext : perform op pc (b s pc) s with
      | next t => exact ih t ((perform_steady hnext).cfg.trans hs)
      | fault _ => rfl
      | refused _ => rfl
    · rfl

/-- The body of SET_TRIGGER_MODULE on board c, whatever board the state holds. -/
def setTriggerModuleBodyOn (c : Board) (module : Nat) (u : State) (pc : Nat) : Act :=
  setTriggerModuleBody module { u with cfg := c } pc

theorem setTriggerModuleBodyOn_eq {u : State} {c : Board} (h : u.cfg = c) (module pc : Nat) :
    setTriggerModuleBody module u pc = setTriggerModuleBodyOn c module u pc := by
  rw [setTriggerModuleBodyOn, ← h]

theorem setTriggerModuleBodyOn_bounded (c : Board) (module : Nat) :
    Bounded (setTriggerModuleBodyOn c module) (moduleNeedsBuf c.params.edgeFirePolicy) 3 :=
  .of_fits fun u pc =>
    have hfits := (setTriggerModuleBody_step module { u with cfg := c } pc).fits
    ⟨hfits.fresh, hfits.ends, hfits.forward, hfits.read⟩

/-- SET_TRIGGER_MODULE runs to its end: on one board its body is bounded. -/
theorem execSetTriggerModule_ends (module : Nat) {s : State} (hs : s.AtRest) :
    ∃ t, exec (.setTriggerModule module) s = .next t ∧ t.AtRest := by
  cases hp : s.phase with
  | running op pc => exact absurd hp (hs op pc)
  | unconstructed => exact ⟨_, request_unconstructed hp, hs⟩
  | idle =>
    have hsame : exec (.setTriggerModule module) s =
        drive (setTriggerModuleBodyOn s.cfg module) opFuel (s.accept (.setTriggerModule module)) :=
      (request_idle hp).trans (drive_congr (fun u pc hu => setTriggerModuleBodyOn_eq hu module pc) opFuel _ rfl)
    have hstart : moduleNeedsBuf s.cfg.params.edgeFirePolicy 0 = false := by
      cases s.cfg.params.edgeFirePolicy <;> rfl
    rw [hsame]
    exact (setTriggerModuleBodyOn_bounded s.cfg module).drive opFuel _ (.setTriggerModule module) 0 rfl (by simp [hstart]) (by decide)

/-! The obligations -/

/-- Every request from a state at rest ends at rest. -/
theorem exec_ends {s : State} (hs : s.AtRest) (i : Instr) : ∃ t, exec i s = .next t ∧ t.AtRest := by
  by_cases ht : ∃ m, i = .setTriggerModule m
  · obtain ⟨m, rfl⟩ := ht
    exact execSetTriggerModule_ends m hs
  by_cases hi : ∃ c, i = .init c
  · obtain ⟨c, rfl⟩ := hi
    cases hp : s.phase with
    | running op pc => exact absurd hp (hs op pc)
    | idle => exact ⟨_, exec_init_constructed hp c, hs⟩
    | unconstructed =>
      cases hv : HardwareVariant.ofCode c with
      | none => exact ⟨_, exec_init_unknown hp hv, raised_atRest _ _ _⟩
      | some v =>
        rw [exec_init_eq_request hp hv]
        exact (initBody_regular v).request nofun
  · have hi : ∀ c, i ≠ .init c := fun c h => hi ⟨c, h⟩
    obtain ⟨needsBuf, last, hregular⟩ := bodyOf_regular (fun m h => ht ⟨m, h⟩) hi
    rw [exec_eq_request hi]
    exact hregular.request hs

/-- Settles O59: the engine's completion and a refusal leave the sequencer at rest, and every request ends there. -/
theorem everyStepEndsAtRest : Obligations.EveryStepEndsAtRest := by
  intro s hs
  cases hq : s.requests with
  | nil => exact ⟨_, step_no_request hs hq, fun op pc => (complete_quiet s).phase ▸ hs op pc⟩
  | cons r rest =>
    cases hd : decode r with
    | ok i =>
      rw [step_request hs hq hd]
      exact exec_ends (hs.taken rest) i
    | error e => exact ⟨_, step_undecodable hs hq hd, hs.taken rest⟩

/-- Events es are those of s and at most one more. -/
def State.EmitsAtMostOne (s : State) (es : List EdgeLock) : Prop := es = s.events ∨ ∃ l, es = s.events ++ [EdgeLock.mk l]

/-- In the run of SET_TRIGGER_MODULE from s: nothing has been emitted, or one event, and the step that emits is past. -/
structure EmittedOnce (s u : State) : Prop where
  cfg : u.cfg = s.cfg
  events : u.events = s.events ∨
    (∃ l, u.events = s.events ++ [EdgeLock.mk l]) ∧
      ∀ op pc, u.phase = .running op pc → emitStep s.cfg.params.edgeFirePolicy < pc

/-- A step after the one that emits emits nothing, and the step that emits leads past itself. -/
theorem EmittedOnce.perform {module : Nat} {s u v : State} (h : EmittedOnce s u) {op : Instr} {pc : Nat}
    (hp : u.phase = .running op pc) (hv : perform op pc (setTriggerModuleBody module u pc) u = .next v) :
    EmittedOnce s v := by
  have hstep := setTriggerModuleBody_step module u pc
  refine ⟨(perform_steady hv).cfg.trans h.cfg, ?_⟩
  by_cases hemit : ∃ lock, setTriggerModuleBody module u pc = .emit lock
  · obtain ⟨lock, hlock⟩ := hemit
    have hpc : pc = emitStep s.cfg.params.edgeFirePolicy := h.cfg ▸ hstep.emits lock hlock
    rw [hlock] at hv
    cases hv
    obtain hnone | ⟨-, hpast⟩ := h.events
    · refine .inr ⟨⟨lock, congrArg (· ++ [EdgeLock.mk lock]) hnone⟩, fun op' pc' hrun => ?_⟩
      cases hrun
      omega
    · have := hpast op pc hp
      omega
  · have hevents : v.events = u.events := by
      rw [perform_events hv]
      split
      · exact absurd ⟨_, ‹_›⟩ hemit
      · rfl
    refine h.events.imp hevents.trans fun ⟨⟨l, hl⟩, hpast⟩ => ⟨⟨l, hevents.trans hl⟩, fun op' pc' hrun => ?_⟩
    obtain ⟨k, hk, -, hkt, -⟩ | hrest := perform_goes hv
    · have hforward := hstep.fits.forward
      have hpast := hpast op pc hp
      rw [hk] at hrun
      cases hrun
      omega
    · exact absurd hrun (hrest op' pc')

theorem execSetTriggerModule_emits {module : Nat} {s t : State} (h : exec (.setTriggerModule module) s = .next t) :
    s.EmitsAtMostOne t.events := by
  cases hp : s.phase with
  | running op pc => exact .inl (congrArg State.events (Host.Outcome.next.inj (h.symm.trans (exec_running hp _))))
  | unconstructed =>
    obtain rfl := Host.Outcome.next.inj ((request_unconstructed hp).symm.trans h)
    exact .inl rfl
  | idle =>
    have hdrive : drive (setTriggerModuleBody module) opFuel (s.accept (.setTriggerModule module)) = .next t :=
      (request_idle hp).symm.trans h
    have honce : EmittedOnce s t := drive_keeps (P := EmittedOnce s) (fun hu hrun hv => hu.perform hrun hv)
      (s := s.accept (.setTriggerModule module)) ⟨rfl, .inl rfl⟩ hdrive
    exact honce.events.imp id fun ⟨hone, _⟩ => hone

theorem exec_events {i : Instr} {s t : State} (hi : ∀ m, i ≠ .setTriggerModule m) (h : exec i s = .next t) :
    t.events = s.events := by
  obtain ⟨hinit, hrun⟩ | rfl | ⟨r, rfl⟩ | ⟨-, c, -, ⟨e, rfl⟩ | ⟨v, -, hrun⟩⟩ := exec_cases h
  · obtain ⟨needsBuf, last, hregular⟩ := bodyOf_regular hi hinit
    exact hregular.request_events hrun
  · rfl
  · rfl
  · rfl
  · exact (initBody_regular v).request_events (s := s.constructedAs v) hrun

/-- Settles O41: the bodies of the other operations emit nothing, and SET_TRIGGER_MODULE passes its one step that emits once. -/
theorem onlySetTriggerModuleEmits : Obligations.OnlySetTriggerModuleEmits := by
  intro s t i h
  refine ⟨fun hi => exec_events hi h, ?_⟩
  by_cases hi : ∀ m, i ≠ .setTriggerModule m
  · exact .inl (exec_events hi h)
  · push Not at hi
    obtain ⟨m, rfl⟩ := hi
    exact (execSetTriggerModule_emits h).imp id fun ⟨l, hl⟩ => ⟨m, l, rfl, hl⟩

end Sys2Proof.Machine
end

section
/-! The WRITE command (spec/40_transport_rmw.md R101, R102; spec/30_encoding.md R85): its effect on a register does not depend on
the operation it stands in, so that WRITE leaves what the effect alone would. -/

namespace Sys2Proof.Machine

/-! The effect of a WRITE inside an operation -/

section
variable (s : State) (op : Instr) (a : Nat) (v : List Byte) (completed : Bool)

theorem engineControlWrite_writing (w : ControlWord) :
    ((s.accept op).writing a v completed).engineControlWrite w =
      ((s.engineControlWrite w).accept op).writing a v completed := by
  unfold State.engineControlWrite
  rw [show ((s.accept op).writing a v completed).eng = s.eng from rfl,
    show ((s.accept op).writing a v completed).prevGo = s.prevGo from rfl]
  split
  · rfl
  · rfl
  · split
    · split <;> rfl
    · rfl

theorem transmitWrite_writing (b : Byte) :
    ((s.accept op).writing a v completed).transmitWrite b = ((s.transmitWrite b).accept op).writing a v completed := by
  unfold State.transmitWrite
  rw [show ((s.accept op).writing a v completed).eng = s.eng from rfl]
  split <;> rfl

theorem store_writing :
    ((s.accept op).writing a v completed).store a v = ((s.store a v).accept op).writing a v completed := by
  unfold State.store
  split
  case h_4 => exact engineControlWrite_writing ..
  case h_5 => exact transmitWrite_writing ..
  all_goals rfl

theorem garble_writing (n : Nat) :
    ((s.accept op).writing a v completed).garble a n = ((s.garble a n).accept op).writing a v completed := by
  unfold State.garble
  split <;> rfl

end

/-! The outcomes of WRITE -/

section
variable {s : State} {a : Nat} {v : List Byte} (hidle : s.phase = .idle)
include hidle

/-- A WRITE outside R63's table is refused. -/
theorem exec_write_refused (ha : ¬InCommandTable s.cfg.params a v.length) : IsRefused (.write a v) s := by
  have hna : admitted s.cfg.params a v.length = false := Bool.eq_false_iff.2 (mt inCommandTable_iff.2 ha)
  have hend : perform (.write a v) 0 (.write a v) (s.accept (.write a v)) =
      .next ((s.accept (.write a v)).refusedIn (.write a v) .commandAddress) := by
    simp [perform, State.doWrite, hna]
  exact ⟨_, request_ends hidle hend (atRest_of_restPhase (op := .write a v) (ok := false) rfl), by
    simp [State.agrees, State.specPart, State.declined, State.refusedIn, State.refuse, State.accept, restPhase, hidle]⟩

variable (ha : InCommandTable s.cfg.params a v.length)
include ha

/-- A WRITE of a reserved control word is refused (R85). -/
theorem exec_write_invalid (hv : payloadValid a v = false) : IsRefused (.write a v) s := by
  have hend : perform (.write a v) 0 (.write a v) (s.accept (.write a v)) =
      .next ((s.accept (.write a v)).refusedIn (.write a v) .controlWord) := by
    simp [perform, State.doWrite, inCommandTable_iff.1 ha, hv]
  exact ⟨_, request_ends hidle hend (atRest_of_restPhase (op := .write a v) (ok := false) rfl), by
    simp [State.agrees, State.specPart, State.declined, State.refusedIn, State.refuse, State.accept, restPhase, hidle]⟩

variable (hv : payloadValid a v = true)
include hv

/-- A WRITE that completes has its effect, and no other. -/
theorem exec_write_completes (hl : s.linkFails 0 = false) :
    ∃ t, exec (.write a v) s = .next t ∧ t.agrees ((s.store a v).finished .nothing [.write a v true]) := by
  have hwrite : perform (.write a v) 0 (.write a v) (s.accept (.write a v)) =
      .next ((((s.store a v).accept (.write a v)).writing a v true).moveTo (.write a v) 1) := by
    rw [← store_writing]
    exact congrArg Host.Outcome.next (doWrite_ok (s := s.accept (.write a v)) (inCommandTable_iff.1 ha) hv hl)
  refine ⟨_, (request_idle hidle).trans ((drive_performs (n := 63) rfl rfl hwrite).trans
    (drive_ends (n := 62) rfl rfl rfl (returned_atRest _ _ _))), ?_⟩
  rfl

/-- A WRITE that fails garbles its register, and changes nothing else. -/
theorem exec_write_fails (hl : s.linkFails 0 = true) :
    ∃ t, exec (.write a v) s = .next t ∧
      t.agrees ((s.garble a v.length).failed (.transportFailure a) [.write a v false]) := by
  have hwrite : perform (.write a v) 0 (.write a v) (s.accept (.write a v)) =
      .next ((((s.garble a v.length).accept (.write a v)).writing a v false).raised (.write a v) (.transportFailure a)) := by
    rw [← garble_writing]
    exact congrArg Host.Outcome.next (doWrite_fail (s := s.accept (.write a v)) (inCommandTable_iff.1 ha) hv hl)
  exact ⟨_, request_ends hidle hwrite (raised_atRest _ _ _), rfl⟩

end

/-! The effects -/

/-- I2CStatus is no configuration register. -/
theorem ne_control_of_configRegister {s : State} {a : Nat} (hc : (s.configRegister a).isSome = true) : a ≠ 47 := by
  rintro rfl
  cases hc

/-- A completed WRITE of a configuration register stores its payload (R101). -/
theorem store_configRegister {s : State} {a : Nat} {v : List Byte} (hc : (s.configRegister a).isSome = true)
    (ha : InCommandTable s.cfg.params a v.length) : s.store a v = s.withConfig a v := by
  obtain ⟨rfl, hn⟩ | ⟨rfl, hn⟩ | ⟨rfl, hn⟩ | ⟨rfl, hn⟩ | ⟨rfl, hn⟩ | ⟨rfl, hn⟩ := ha
  case inr.inr.inr.inl => cases hc
  case inr.inr.inr.inr.inl => cases hc
  case inr.inr.inr.inr.inr => exact store_ioRoute s v
  all_goals
    obtain ⟨b, rfl⟩ := List.length_eq_one_iff.1 hn
    rfl

/-- A failed WRITE of a configuration register leaves any bytes there, as many as it had (R102). -/
theorem garble_configRegister {s : State} {a n : Nat} (hc : (s.configRegister a).isSome = true)
    (ha : InCommandTable s.cfg.params a n) :
    ∃ bs, bs.length = n ∧ ∃ noise, s.garble a n = { s.withConfig a bs with noise := noise } := by
  obtain ⟨rfl, rfl⟩ | ⟨rfl, rfl⟩ | ⟨rfl, rfl⟩ | ⟨rfl, rfl⟩ | ⟨rfl, rfl⟩ | ⟨rfl, rfl⟩ := ha
  case inr.inr.inr.inl => cases hc
  case inr.inr.inr.inr.inl => cases hc
  case inr.inr.inr.inr.inr => exact ⟨s.noises _, by simp [State.noises], _, rfl⟩
  all_goals exact ⟨[s.noiseAt 0], rfl, _, rfl⟩

theorem transmitWrite_not_idle {s : State} (h : s.eng ≠ .idle) (b : Byte) :
    s.transmitWrite b = { s with txd := b, eng := .undefined, bus := .lawless } := by
  unfold State.transmitWrite
  split
  · exact absurd ‹_› h
  · rfl

/-- A control word is valid where its control byte is one of the two and REGV is set (R85). -/
theorem payloadValid_control {c d e : Byte} (hc : c = 0x00 ∨ c = 0x04) (he : e.getLsbD 7 = true) :
    payloadValid 47 [c, d, e] = true := by
  obtain rfl | rfl := hc <;> simp [payloadValid, ControlWord.valid, ctlIdle, ctlStrobe, he]

theorem payloadValid_reserved {c d e : Byte} (h : (c ≠ 0x00 ∧ c ≠ 0x04) ∨ e.getLsbD 7 = false) :
    payloadValid 47 [c, d, e] = false := by
  have hvalid : payloadValid 47 [c, d, e] = ((c == ctlIdle || c == ctlStrobe) && e.getLsbD 7) := rfl
  rw [hvalid]
  obtain ⟨h0, h4⟩ | he := h
  · rw [beq_false_of_ne (show c ≠ ctlIdle from h0), beq_false_of_ne (show c ≠ ctlStrobe from h4)]
    rfl
  · rw [he, Bool.and_false]

theorem go_of_idle (d e : Byte) : (ControlWord.mk 0x00 d e).go = false := by simp [ControlWord.go]

theorem go_of_strobe (d e : Byte) : (ControlWord.mk 0x04 d e).go = true := by simp [ControlWord.go]

section
variable {s : State} {w : ControlWord} (he : s.eng = .idle) (hgo : w.go = true)
include he hgo

/-- GO was set before: no transaction starts (R172). -/
theorem engineControlWrite_of_prevGo (hprev : s.prevGo = true) :
    s.engineControlWrite w = { s with ctlLatch := some w, noise := s.noiseAfterPrevGo } := by
  simp [State.engineControlWrite, he, hgo, hprev]

/-- A rising edge of GO, whether the latch is defined or not (R172). -/
theorem engineControlWrite_of_not_prevGo (hprev : s.prevGo = false) :
    s.engineControlWrite w = { s with
      ctlLatch := some w, noise := s.noiseAfterPrevGo, rxd := none, eng := .busy ⟨w.rw, w.sla, w.reg, s.txd⟩ } := by
  simp [State.engineControlWrite, he, hgo, hprev]

end

/-! The obligations -/

/-- Settles O13: the WRITE has its register's effect, which at 48 depends on the engine. -/
theorem writeStoresItsPayload : Obligations.WriteStoresItsPayload := by
  intro s a v hidle
  refine ⟨fun hl => ⟨fun ha hc => ?config, ?data⟩, exec_write_refused hidle⟩
  case config =>
    rw [← store_configRegister hc ha]
    exact exec_write_completes hidle ha (payloadValid_of_ne (ne_control_of_configRegister hc) v) hl
  case data =>
    rintro d rfl rfl
    obtain ⟨t, hx, hagrees⟩ := exec_write_completes (a := 48) (v := [d]) hidle (inCommandTable_iff.2 (admitted_data _)) rfl hl
    rw [store_txd] at hagrees
    exact ⟨t, hx, fun he => transmitWrite_idle he d ▸ hagrees, fun hne => transmitWrite_not_idle hne d ▸ hagrees⟩

/-- Settles O14, by the engine's state and the edge of GO. -/
theorem controlWriteStartsTransactions : Obligations.ControlWriteStartsTransactions := by
  intro s c d e hidle hl hc he after started
  obtain ⟨t, hx, hagrees⟩ := exec_write_completes hidle (v := [c, d, e]) (inCommandTable_iff.2 (admitted_status _))
    (payloadValid_control hc he) hl
  rw [store_control] at hagrees
  have hafter : ∀ {u : State} {noise}, s.engineControlWrite ⟨c, d, e⟩ =
      { u with ctlLatch := some ⟨c, d, e⟩, noise := noise } → after u := by
    intro u noise hu
    rw [hu] at hagrees
    exact ⟨t, hx, hagrees⟩
  have hrises : s.eng = .idle → c = 0x04 → s.prevGo = false → after started := fun hi h4 hgo =>
    hafter (engineControlWrite_of_not_prevGo hi (h4 ▸ go_of_strobe d e) hgo)
  have hstays : s.eng = .idle → c = 0x04 → s.prevGo = true → after s := fun hi h4 hgo =>
    hafter (engineControlWrite_of_prevGo hi (h4 ▸ go_of_strobe d e) hgo)
  refine ⟨fun hi h0 => ?release, fun hi h4 w hw hgo => hrises hi h4 ?_, fun hi h4 w hw hgo => hstays hi h4 ?_,
    fun hi h4 hnone => ?unknown, fun hne => hafter (engineControlWrite_not_idle hne)⟩
  case release =>
    exact hafter (engineControlWrite_noGo hi (h0 ▸ go_of_idle d e))
  case unknown =>
    cases hgo : s.prevGo with
    | false => exact .inl (hrises hi h4 hgo)
    | true => exact .inr (hstays hi h4 hgo)
  all_goals rw [State.prevGo, hw]; exact hgo

/-- Settles O15: the payload is checked before the command is issued. -/
theorem reservedControlWordsAreRefused : Obligations.ReservedControlWordsAreRefused :=
  fun _ _ _ _ hidle h =>
    exec_write_invalid hidle (inCommandTable_iff.2 (admitted_status _)) (payloadValid_reserved h)

/-- Settles O16: a failed READ changes nothing, and a failed WRITE garbles its register. -/
theorem failedCommandsGarbleOnlyTheirRegister : Obligations.FailedCommandsGarbleOnlyTheirRegister := by
  intro s a hidle hl
  refine ⟨fun n ha => failsWithItsRead_of rfl hidle rfl (inCommandTable_iff.1 ha) rfl hl,
    fun v ha => ⟨fun hc => ?config, ?data, ?dataBusy, ?control⟩⟩
  case config =>
    obtain ⟨t, hx, hagrees⟩ := exec_write_fails hidle ha (payloadValid_of_ne (ne_control_of_configRegister hc) v) hl
    obtain ⟨bs, hbs, noise, hgarble⟩ := garble_configRegister hc ha
    rw [hgarble] at hagrees
    exact ⟨t, bs, hx, hbs, hagrees⟩
  case data =>
    rintro rfl -
    obtain ⟨t, hx, hagrees⟩ := exec_write_fails hidle ha rfl hl
    exact ⟨t, s.noiseAt 0, hx, hagrees⟩
  case dataBusy =>
    rintro txn rfl hbusy
    obtain ⟨t, hx, hagrees⟩ := exec_write_fails hidle ha rfl hl
    exact ⟨t, s.noiseAt 0, hx, (hagrees.field State.eng).trans hbusy, hagrees⟩
  case control =>
    rintro c d e rfl rfl hc he
    obtain ⟨t, hx, hagrees⟩ := exec_write_fails hidle ha (payloadValid_control hc he) hl
    exact ⟨t, _, .lawless, hx, hagrees⟩

end Sys2Proof.Machine
end

section
/-! The block constructed for Lite (spec/10_state.md R23, R24): the gates of the clock and trigger operations, at its profile. -/

namespace Sys2Proof.Machine

/-- Settles O11: Lite's profile has no front-panel pins (P2), and the gates of the operations say the rest. -/
theorem liteRejectsFrontPanel : Obligations.LiteRejectsFrontPanel := by
  intro s hidle _ hcaps
  have hnone : (s.cfg.params.capsOf .lite).hasFrontPanelPins = false := s.cfg.lite_no_front_panel
  have hsource : ∀ {source src}, ClockSource.ofCode source = some src → src = .frontPanelA ∨ src = .frontPanelB →
      RaisesAtOnce (.setClockSource source) s (.invalidParameter [source]) := fun hsrc hpanel =>
    ((setClockSourceWritesBits2To0 s _ _ hidle hcaps).1 _ hsrc).2 (.inr ⟨hpanel, hnone⟩)
  have htrigout : ∀ on : Bool, RaisesAtOnce (.setTrigoutFpa on.toNat) s (.invalidParameter []) ∧
      RaisesAtOnce .getTrigoutFpa s (.invalidParameter []) := fun on =>
    (trigoutIsBit3OfTriggerModule s on _ hidle hcaps).2 hnone
  refine ⟨hsource rfl (.inl rfl), hsource rfl (.inr rfl), fun enabled hle => ?_, (htrigout true).2⟩
  obtain rfl | rfl := Nat.le_one_iff_eq_zero_or_eq_one.1 hle
  · exact (htrigout false).1
  · exact (htrigout true).1

end Sys2Proof.Machine
end

section
/-! The three-phase handshake step by step (spec/45_i2c_master.md R176, R185; 92_eei_decisions.md D39): up to any of its steps it
changes nothing but the engine, its latches and its slave, the command trace and the draws, whatever the engine's state; so a
control WRITE that fails there, or a caller that stops, leaves the same as at the start but for an Undefined engine. -/

namespace Sys2Proof.Machine

/-! What the engine may change -/

/-- What the engine's latches, flag, state and slave do not touch, of the fields the spec names. -/
def State.engineBlind (s : State) : State := (s.engineLost none none none).specPart

/-- The completion step changes the engine, its latches, its slave and the slave's draws (R173). -/
theorem complete_changes (s : State) : ∃ eng rxd nack bus slave,
    s.complete = { s with eng := eng, rxd := rxd, nack := nack, bus := bus, slave := slave } := by
  unfold State.complete State.slaveWrite State.slaveRead
  split
  · split
    · split
      · exact ⟨_, _, _, _, _, rfl⟩
      · split <;> exact ⟨_, _, _, _, _, rfl⟩
    · split
      · exact ⟨_, _, _, _, _, rfl⟩
      · split <;> exact ⟨_, _, _, _, _, rfl⟩
  · exact ⟨_, _, _, _, _, rfl⟩

theorem complete_engineBlind (s : State) : s.complete.engineBlind = s.engineBlind := by
  obtain ⟨_, _, _, _, _, hs⟩ := complete_changes s
  rw [hs]
  rfl

theorem complete_link (s : State) : s.complete.link = s.link := by
  obtain ⟨_, _, _, _, _, hs⟩ := complete_changes s
  rw [hs]

theorem complete_caller (s : State) : s.complete.caller = s.caller := by
  obtain ⟨_, _, _, _, _, hs⟩ := complete_changes s
  rw [hs]

theorem engineControlWrite_engineBlind (s : State) (w : ControlWord) :
    (s.engineControlWrite w).engineBlind = s.engineBlind := by
  unfold State.engineControlWrite
  split
  · rfl
  · rfl
  · split
    · split <;> rfl
    · rfl

theorem transmitWrite_engineBlind (s : State) (b : Byte) :
    (s.transmitWrite b).engineBlind = State.engineBlind { s with txd := b } := by
  unfold State.transmitWrite
  split <;> rfl

theorem engineControlWrite_caller (s : State) (w : ControlWord) : (s.engineControlWrite w).caller = s.caller := by
  unfold State.engineControlWrite
  split
  · rfl
  · rfl
  · split
    · split <;> rfl
    · rfl

theorem transmitWrite_caller (s : State) (b : Byte) : (s.transmitWrite b).caller = s.caller := by
  unfold State.transmitWrite
  split <;> rfl

/-- t is s with the engine Undefined, whatever its latches, at the end of an operation that reports rep and adds tr. -/
structure EndsLost (s : State) (rep : Report) (tr : List Traffic) (t : State) : Prop where
  eng : t.eng = .undefined
  bus : t.bus = .lawless
  rest : t.engineBlind = (s.ended rep tr).engineBlind

/-- The end of an operation with the engine lost, as the claims say it. -/
theorem EndsLost.agrees {s t : State} {rep : Report} {tr : List Traffic} (h : EndsLost s rep tr t) :
    t.agrees ((s.engineLost t.ctlLatch t.nack t.rxd).ended rep tr) := by
  have hsplit : t.specPart = t.engineBlind.engineLost t.ctlLatch t.nack t.rxd := by
    unfold State.engineBlind State.specPart State.engineLost
    simp only [h.eng, h.bus]
  rw [State.agrees, hsplit, h.rest]
  rfl

/-! The primitives of a handshake -/

/-- Primitive j of a handshake: the setup, strobe and release WRITEs with their waits. -/
def handshakePrim (rw : Direction) (sla reg : Reg7) (j : Nat) : Act :=
  match j with
  | 0 => .control false (controlWordOf rw sla reg ctlIdle)
  | 1 => .wait true
  | 2 => .control true (controlWordOf rw sla reg ctlStrobe)
  | 3 => .wait true
  | 4 => .control true (controlWordOf rw sla reg ctlIdle)
  | _ => .wait false

theorem i2cReadPrim_eq_handshakePrim (sla reg : Reg7) : ∀ {j : Nat}, j < 6 →
    i2cReadPrim sla reg j = handshakePrim .read sla reg j
  | 0, _ | 1, _ | 2, _ | 3, _ | 4, _ | 5, _ => rfl

theorem i2cWritePrim_eq_handshakePrim (sla reg : Reg7) (data : Act) : ∀ {j : Nat}, j < 6 →
    i2cWritePrim sla reg data (1 + j) = handshakePrim .write sla reg j
  | 0, _ | 1, _ | 2, _ | 3, _ | 4, _ | 5, _ => rfl

section
variable {s : State} {op : Instr} {pc : Nat} {inside : Bool} (hc : inside = true → s.callerStops 0 = false)

/-- s moved to the next step of op, with x in the trace. -/
def State.advanced (s : State) (op : Instr) (pc : Nat) (tr : List Traffic) : State :=
  { s with phase := .running op pc, trace := s.trace ++ tr }

include hc

/-- A control WRITE that completes. -/
theorem perform_control_blind (w : ControlWord) (hl : s.linkFails 0 = false) :
    ∃ t, perform op pc (.control inside w) s = .next t ∧ t.link = s.link.skip 1 ∧ t.caller = s.caller.skip inside.toNat ∧
      t.engineBlind = (s.advanced op (pc + 1) [.write 47 w.bytes true]).engineBlind := by
  refine ⟨_, perform_control w hl hc, engineControlWrite_link _ w, engineControlWrite_caller _ w, ?_⟩
  exact congrArg (fun u => State.moveTo u op (pc + 1)) (engineControlWrite_engineBlind _ w)

/-- A settle wait. -/
theorem perform_wait_blind :
    ∃ t, perform op pc (.wait inside) s = .next t ∧ t.link = s.link ∧ t.caller = s.caller.skip inside.toNat ∧
      t.engineBlind = (s.advanced op (pc + 1) [.wait]).engineBlind := by
  refine ⟨_, perform_wait hc, complete_link _, complete_caller _, ?_⟩
  exact congrArg (fun u => (State.record u .wait).moveTo op (pc + 1)) (complete_engineBlind _)

end

/-! How far a handshake has got -/

/-- u is s once the first j primitives of a handshake have been performed, from step pc of op on. -/
structure Handshaking (s : State) (op : Instr) (pc : Nat) (rw : Direction) (sla reg : Reg7) (j : Nat) (u : State) :
    Prop where
  link : u.link = s.link.skip ((j + 1) / 2)
  caller : u.caller = s.caller.skip (j - 1)
  rest : u.engineBlind = (s.advanced op (pc + j) ((handshake rw sla reg).take j)).engineBlind

section
variable {s u : State} {op : Instr} {pc : Nat} {rw : Direction} {sla reg : Reg7} {j : Nat}

theorem Handshaking.phase (h : Handshaking s op pc rw sla reg j u) : u.phase = .running op (pc + j) :=
  congrArg State.phase h.rest

theorem Handshaking.linkFails (h : Handshaking s op pc rw sla reg j u) (k : Nat) :
    u.linkFails k = s.linkFails ((j + 1) / 2 + k) := by
  simp [State.linkFails, h.link]

theorem Handshaking.callerStops (h : Handshaking s op pc rw sla reg j u) (k : Nat) :
    u.callerStops k = s.callerStops (j - 1 + k) := by
  simp [State.callerStops, h.caller]

/-- The next primitive of the handshake, whatever it is. -/
theorem Handshaking.next (h : Handshaking s op pc rw sla reg j u) {t : State} {l c : Nat} {x : Traffic}
    (hl : t.link = u.link.skip l) (hc : t.caller = u.caller.skip c)
    (hrest : t.engineBlind = (u.advanced op (pc + j + 1) [x]).engineBlind)
    (hlj : (j + 1) / 2 + l = (j + 1 + 1) / 2) (hcj : j - 1 + c = j + 1 - 1)
    (hx : (handshake rw sla reg).take j ++ [x] = (handshake rw sla reg).take (j + 1)) :
    Handshaking s op pc rw sla reg (j + 1) t where
  link := by rw [hl, h.link, Draws.skip_skip, hlj]
  caller := by rw [hc, h.caller, Draws.skip_skip, hcj]
  rest := by
    have hu := congrArg (fun v => State.advanced v op (pc + j + 1) [x]) h.rest
    refine hrest.trans (hu.trans ?_)
    rw [← hx]
    simp [State.engineBlind, State.engineLost, State.specPart, State.advanced, Nat.add_assoc]

/-- One primitive of the handshake, nothing failing and the caller staying. -/
theorem Handshaking.step (h : Handshaking s op pc rw sla reg j u) (hj : j < 5)
    (hl : j % 2 = 0 → s.linkFails ((j + 1) / 2) = false) (hc : 1 ≤ j → s.callerStops (j - 1) = false) :
    ∃ t, perform op (pc + j) (handshakePrim rw sla reg j) u = .next t ∧ Handshaking s op pc rw sla reg (j + 1) t := by
  have hl0 : j % 2 = 0 → u.linkFails 0 = false := fun h0 => (h.linkFails 0).trans (hl h0)
  have hc0 : 1 ≤ j → u.callerStops 0 = false := fun h1 => (h.callerStops 0).trans (hc h1)
  match j, hj with
  | 0, _ =>
    obtain ⟨t, ht, htl, htc, hrest⟩ := perform_control_blind (inside := false) nofun
      (controlWordOf rw sla reg ctlIdle) (hl0 rfl)
    exact ⟨t, ht, h.next htl htc hrest rfl rfl (by rw [controlWordOf_bytes]; rfl)⟩
  | 1, _ =>
    obtain ⟨t, ht, htl, htc, hrest⟩ := perform_wait_blind (inside := true) fun _ => hc0 (by decide)
    exact ⟨t, ht, h.next (l := 0) (by simpa using htl) htc hrest rfl rfl rfl⟩
  | 2, _ =>
    obtain ⟨t, ht, htl, htc, hrest⟩ := perform_control_blind (inside := true) (fun _ => hc0 (by decide))
      (controlWordOf rw sla reg ctlStrobe) (hl0 rfl)
    exact ⟨t, ht, h.next htl htc hrest rfl rfl (by rw [controlWordOf_bytes]; rfl)⟩
  | 3, _ =>
    obtain ⟨t, ht, htl, htc, hrest⟩ := perform_wait_blind (inside := true) fun _ => hc0 (by decide)
    exact ⟨t, ht, h.next (l := 0) (by simpa using htl) htc hrest rfl rfl rfl⟩
  | 4, _ =>
    obtain ⟨t, ht, htl, htc, hrest⟩ := perform_control_blind (inside := true) (fun _ => hc0 (by decide))
      (controlWordOf rw sla reg ctlIdle) (hl0 rfl)
    exact ⟨t, ht, h.next htl htc hrest rfl rfl (by rw [controlWordOf_bytes]; rfl)⟩

/-- The handshake reaches step j, where the commands before it complete and the caller has stayed. -/
theorem drive_handshaking {b : State → Nat → Act} (hp : s.phase = .running op pc)
    (hb : ∀ u k, k < 6 → b u (pc + k) = handshakePrim rw sla reg k) (j : Nat) (hj : j ≤ 5)
    (hl : s.linkUp ((j + 1) / 2)) (hc : s.callerStays (j - 1)) :
    ∃ u, Handshaking s op pc rw sla reg j u ∧ ∀ n, drive b (n + j) s = drive b n u := by
  induction j with
  | zero =>
    refine ⟨s, ⟨by simp, by simp, ?_⟩, fun n => rfl⟩
    simp [State.engineBlind, State.engineLost, State.specPart, State.advanced, hp]
  | succ j ih =>
    obtain ⟨u, hu, hdrive⟩ := ih (by omega) (fun k hk => hl k (by omega)) (fun k hk => hc k (by omega))
    obtain ⟨t, ht, hnext⟩ := hu.step (by omega) (fun heven => hl _ (by omega)) (fun h1 => hc _ (by omega))
    refine ⟨t, hnext, fun n => ?_⟩
    rw [show n + (j + 1) = n + 1 + j by omega, hdrive]
    exact drive_performs hu.phase (hb u j (by omega)) ht

/-- A control WRITE that fails ends the operation with the engine Undefined (R102, R171). -/
theorem doControl_fails (hop : Instr.plain op = true) (w : ControlWord) (hl : u.linkFails 0 = true) :
    (u.doControl op pc w).AtRest ∧
      EndsLost u (.error (.transportFailure 47)) [.write 47 w.bytes false] (u.doControl op pc w) := by
  have hdo : u.doControl op pc w = ((u.writing 47 w.bytes false).garble 47 3).raised op (.transportFailure 47) := by
    simp [State.doControl, State.writeCommand, hl, State.writing, State.record, ControlWord.bytes]
  rw [hdo]
  refine ⟨raised_atRest _ _ _, rfl, rfl, ?_⟩
  simp [State.engineBlind, State.engineLost, State.specPart, State.ended, State.raised, State.garble, State.writing,
    restPhase_of_plain hop, reportOf_of_plain hop]

/-- The same of the primitive, the caller staying. -/
theorem perform_control_fails {inside : Bool} (hop : Instr.plain op = true) (w : ControlWord) (hl : u.linkFails 0 = true)
    (hc : inside = true → u.callerStops 0 = false) :
    ∃ t, perform op pc (.control inside w) u = .next t ∧ t.AtRest ∧
      EndsLost u (.error (.transportFailure 47)) [.write 47 w.bytes false] t := by
  cases inside with
  | false => exact ⟨_, rfl, doControl_fails hop w hl⟩
  | true =>
    obtain ⟨hrest, hlost⟩ := doControl_fails (u := { u with caller := u.caller.skip 1 }) (pc := pc) hop w hl
    refine ⟨_, ?_, hrest, hlost.eng, hlost.bus, hlost.rest⟩
    simp [perform, State.unlessAbandoned, hc rfl]

/-- Where the caller stops at a primitive inside a handshake, the operation ends with the engine Undefined (R176). -/
theorem unlessAbandoned_stops (hop : Instr.plain op = true) (k : State → State) (hc : u.callerStops 0 = true) :
    ∃ t, u.unlessAbandoned op true k = t ∧ t.AtRest ∧ EndsLost u .none [] t := by
  refine ⟨State.abandoned { u with caller := u.caller.skip 1 } op, by simp [State.unlessAbandoned, hc],
    atRest_of_restPhase (op := op) (ok := false) rfl, rfl, rfl, ?_⟩
  simp [State.engineBlind, State.engineLost, State.specPart, State.ended, State.abandoned, State.undefineEngine,
    restPhase_of_plain hop]

/-- An end of the operation from within the handshake is an end of it from its start. -/
theorem Handshaking.endsLost {t : State} {rep : Report} {tr : List Traffic} (h : Handshaking s op pc rw sla reg j u)
    (ht : EndsLost u rep tr t) : EndsLost s rep ((handshake rw sla reg).take j ++ tr) t where
  eng := ht.eng
  bus := ht.bus
  rest := by
    have hu := congrArg (fun v => State.ended v rep tr) h.rest
    refine ht.rest.trans (hu.trans ?_)
    simp [State.engineBlind, State.engineLost, State.specPart, State.advanced, State.ended]

section
variable {b : State → Nat → Act} (hop : Instr.plain op = true) (hp : s.phase = .running op pc)
  (hb : ∀ u k, k < 6 → b u (pc + k) = handshakePrim rw sla reg k) (m : Nat)
include hop hp hb

/-- The k-th control WRITE of a handshake fails. -/
theorem drive_control_fails {k : Nat} (hk : k < 3) (hl : s.linkUp k) (hf : s.linkFails k = true)
    (hc : s.callerStays (2 * k)) :
    ∃ t, drive b (m + 6) s = .next t ∧ EndsLost s (.error (.transportFailure 47))
      ((handshake rw sla reg).take (2 * k) ++
        [.write 47 [if k = 1 then 0x04 else 0x00, slaveByte rw sla, registerByte reg] false]) t := by
  obtain ⟨u, hu, hdrive⟩ := drive_handshaking hp hb (2 * k) (by omega) (fun j hj => hl j (by omega))
    (fun j hj => hc j (by omega))
  have hfails : u.linkFails 0 = true := by rw [hu.linkFails, show (2 * k + 1) / 2 + 0 = k by omega, hf]
  have hstays : 0 < k → u.callerStops 0 = false := fun h0 => by
    rw [hu.callerStops]
    exact hc _ (by omega)
  have hends : ∀ {inside : Bool} {g : Byte}, (inside = true → 0 < k) → g = (if k = 1 then 0x04 else 0x00) →
      handshakePrim rw sla reg (2 * k) = .control inside (controlWordOf rw sla reg g) →
      ∃ t, drive b (m + 6) s = .next t ∧ EndsLost s (.error (.transportFailure 47))
        ((handshake rw sla reg).take (2 * k) ++
          [.write 47 [if k = 1 then 0x04 else 0x00, slaveByte rw sla, registerByte reg] false]) t := by
    rintro inside g hinside rfl hprim
    obtain ⟨t, ht, hrest, hlost⟩ := perform_control_fails (pc := pc + 2 * k) hop (controlWordOf rw sla reg _) hfails
      fun h => hstays (hinside h)
    rw [controlWordOf_bytes] at hlost
    refine ⟨t, ?_, hu.endsLost hlost⟩
    rw [show m + 6 = (m + 5 - 2 * k) + 1 + 2 * k by omega, hdrive]
    exact drive_ends hu.phase ((hb u (2 * k) (by omega)).trans hprim) ht hrest
  obtain rfl | rfl | rfl : k = 0 ∨ k = 1 ∨ k = 2 := by omega
  · exact hends (inside := false) nofun rfl rfl
  · exact hends (inside := true) (fun _ => Nat.one_pos) rfl rfl
  · exact hends (inside := true) (fun _ => Nat.two_pos) rfl rfl

/-- The caller stops at its k-th chance in a handshake. -/
theorem drive_abandoned {k : Nat} (hk : k < 4) (hl : s.linkUp (k / 2 + 1)) (hc : s.callerStays k)
    (hstop : s.callerStops k = true) :
    ∃ t, drive b (m + 6) s = .next t ∧ EndsLost s .none ((handshake rw sla reg).take (k + 1)) t := by
  obtain ⟨u, hu, hdrive⟩ := drive_handshaking hp hb (k + 1) (by omega) (fun j hj => hl j (by omega)) hc
  have hstops : u.callerStops 0 = true := (hu.callerStops 0).trans hstop
  have hends : ∀ {f : State → State}, perform op (pc + (k + 1)) (handshakePrim rw sla reg (k + 1)) u =
      .next (u.unlessAbandoned op true f) →
      ∃ t, drive b (m + 6) s = .next t ∧ EndsLost s .none ((handshake rw sla reg).take (k + 1)) t := by
    intro f hprim
    obtain ⟨t, rfl, hrest, hlost⟩ := unlessAbandoned_stops hop f hstops
    refine ⟨_, ?_, List.append_nil _ ▸ hu.endsLost hlost⟩
    rw [show m + 6 = (m + 4 - k) + 1 + (k + 1) by omega, hdrive]
    exact drive_ends hu.phase (hb u (k + 1) (by omega)) hprim hrest
  obtain rfl | rfl | rfl | rfl : k = 0 ∨ k = 1 ∨ k = 2 ∨ k = 3 := by omega
  all_goals exact hends rfl

end

end


/-! The byte operations that end inside their handshake -/

/-- The data WRITE of a byte write has completed, the engine in whatever state: u is about to take the handshake's first step. -/
structure DataWritten (s : State) (sla reg : Reg7) (d : Byte) (u : State) : Prop where
  phase : u.phase = .running (.i2cWriteByte reg.toNat d sla.toNat) 1
  link : u.link = s.link.skip 1
  caller : u.caller = s.caller
  rest : ∀ rep tr, (u.ended rep tr).engineBlind =
    (State.ended { s with txd := d } rep (.write 48 [d] true :: tr)).engineBlind

section
variable {s u t : State} {sla reg : Reg7} {d : Byte}

/-- An end of a byte write inside its handshake. -/
theorem DataWritten.endsLost {rep : Report} {tr : List Traffic} (h : DataWritten s sla reg d u)
    (ht : EndsLost u rep tr t) : EndsLost { s with txd := d } rep (.write 48 [d] true :: tr) t :=
  ⟨ht.eng, ht.bus, ht.rest.trans (h.rest rep tr)⟩

theorem DataWritten.linkFails (h : DataWritten s sla reg d u) (k : Nat) : u.linkFails k = s.linkFails (k + 1) := by
  simp [State.linkFails, h.link, Nat.add_comm]

theorem DataWritten.linkUp (h : DataWritten s sla reg d u) {n : Nat} (hl : s.linkUp (n + 1)) : u.linkUp n :=
  fun k hk => (h.linkFails k).trans (hl (k + 1) (by omega))

theorem DataWritten.callerStops (h : DataWritten s sla reg d u) (k : Nat) : u.callerStops k = s.callerStops k := by
  simp [State.callerStops, h.caller]

theorem DataWritten.callerStays (h : DataWritten s sla reg d u) {n : Nat} (hc : s.callerStays n) : u.callerStays n :=
  fun k hk => (h.callerStops k).trans (hc k hk)

theorem i2cRead_body (sla reg : Reg7) (u : State) {k : Nat} (hk : k < 6) :
    i2cReadByteBody reg.toNat sla.toNat u (0 + k) = handshakePrim .read sla reg k := by
  rw [i2cReadByteBody_of, if_pos (by omega), Nat.zero_add, i2cReadPrim_eq_handshakePrim sla reg hk]

theorem i2cWrite_body (sla reg : Reg7) (d : Byte) (u : State) {k : Nat} (hk : k < 6) :
    i2cWriteByteBody reg.toNat d sla.toNat u (1 + k) = handshakePrim .write sla reg k := by
  rw [i2cWriteByteBody_of, if_pos (by omega), i2cWritePrim_eq_handshakePrim sla reg _ hk]

/-- A byte write reaches its handshake where the data WRITE completes, whatever the engine's state. -/
theorem i2cWrite_dataWritten (hidle : s.phase = .idle) (sla reg : Reg7) (d : Byte) (hl : s.linkFails 0 = false) :
    ∃ u, DataWritten s sla reg d u ∧
      exec (.i2cWriteByte reg.toNat d sla.toNat) s = drive (i2cWriteByteBody reg.toNat d sla.toNat) (57 + 6) u := by
  have hdata : (s.accept (.i2cWriteByte reg.toNat d sla.toNat)).doWrite (.i2cWriteByte reg.toNat d sla.toNat) 0 48 [d] =
      (((s.accept (.i2cWriteByte reg.toNat d sla.toNat)).writing 48 [d] true).transmitWrite d).moveTo _ 1 :=
    doWrite_ok rfl rfl hl
  have hexec := (request_idle hidle).trans
    (drive_performs (n := 63) rfl (i2cWriteByteBody_of reg sla d _ 0) (congrArg Host.Outcome.next hdata))
  refine ⟨_, ?_, hexec⟩
  refine ⟨rfl, transmitWrite_link _ d, transmitWrite_caller _ d, fun rep tr => ?_⟩
  have hw := transmitWrite_engineBlind ((s.accept (.i2cWriteByte reg.toNat d sla.toNat)).writing 48 [d] true) d
  refine (congrArg (fun u => State.ended u rep tr) hw).trans ?_
  simp [State.engineBlind, State.engineLost, State.specPart, State.ended, State.writing]

end

/-- Settles O46: the commands before the failing one leave everything but the engine as it was, and the failure loses the
engine; a byte write is one command further when its handshake begins. -/
theorem failedControlWriteLeavesTheEngineUndefined : Obligations.FailedControlWriteLeavesTheEngineUndefined := by
  intro s sla reg k hidle hk hcaller
  refine ⟨fun hl hf => ?read, fun data hl hf => ?write⟩
  case read =>
    obtain ⟨t, ht, hlost⟩ := drive_control_fails (s := s.accept (.i2cReadByte reg.toNat sla.toNat)) rfl rfl
      (fun u _ => i2cRead_body sla reg u) 58 hk hl hf hcaller
    have hlost : EndsLost s _ _ t := ⟨hlost.eng, hlost.bus, hlost.rest⟩
    exact ⟨t, _, _, _, (request_idle hidle).trans ht, hlost.agrees⟩
  case write =>
    obtain ⟨u, hu, hexec⟩ := i2cWrite_dataWritten hidle sla reg data (hl 0 (by omega))
    obtain ⟨t, ht, hlost⟩ := drive_control_fails rfl hu.phase (fun u _ => i2cWrite_body sla reg data u) 57 hk
      (hu.linkUp hl) ((hu.linkFails k).trans hf) (hu.callerStays hcaller)
    exact ⟨t, _, _, _, hexec.trans ht, (hu.endsLost hlost).agrees⟩

/-- Settles O47: as for O46, with a caller that stops in the place of the failing command. -/
theorem abandonmentLeavesTheEngineUndefined : Obligations.AbandonmentLeavesTheEngineUndefined := by
  intro s sla reg k hidle hk hcaller hstop
  refine ⟨fun hl => ?read, fun data hl => ?write⟩
  case read =>
    obtain ⟨t, ht, hlost⟩ := drive_abandoned (s := s.accept (.i2cReadByte reg.toNat sla.toNat)) rfl rfl
      (fun u _ => i2cRead_body sla reg u) 58 hk hl hcaller hstop
    have hlost : EndsLost s _ _ t := ⟨hlost.eng, hlost.bus, hlost.rest⟩
    exact ⟨t, _, _, _, (request_idle hidle).trans ht, hlost.agrees⟩
  case write =>
    obtain ⟨u, hu, hexec⟩ := i2cWrite_dataWritten hidle sla reg data (hl 0 (by omega))
    obtain ⟨t, ht, hlost⟩ := drive_abandoned rfl hu.phase (fun u _ => i2cWrite_body sla reg data u) 57 hk
      (hu.linkUp hl) (hu.callerStays hcaller) ((hu.callerStops k).trans hstop)
    exact ⟨t, _, _, _, hexec.trans ht, (hu.endsLost hlost).agrees⟩

end Sys2Proof.Machine
end

section
/-! The byte operations with the engine idle (spec/45_i2c_master.md R185, R186, R176): what the handshake leaves of the engine,
and where a command after it fails. -/

namespace Sys2Proof.Machine

/-! What a completed handshake leaves -/

theorem controlWordOf_idle_eq_releaseWord (rw : Direction) (sla reg : Reg7) :
    controlWordOf rw sla reg ctlIdle = releaseWord rw sla reg := by
  cases rw <;> simp [controlWordOf, releaseWord, slaveByte, registerByte, ctlIdle]

/-- s with the answer of the slave to a read. -/
def State.readAnswered (s : State) (sla reg : Reg7) : State :=
  { s with
    bus := (s.slaveRead sla reg).2.bus
    rxd := if (s.slaveRead sla reg).1.ack then some (s.slaveRead sla reg).1.data else none
    ctlLatch := some (releaseWord .read sla reg), nack := some (!(s.slaveRead sla reg).1.ack) }

/-- s with d transmitted and the answer of the slave to it. -/
def State.writeAnswered (s : State) (sla reg : Reg7) (d : Byte) : State :=
  { s with
    bus := (s.slaveWrite sla reg d).2.bus, txd := d, rxd := none
    ctlLatch := some (releaseWord .write sla reg), nack := some (!(s.slaveWrite sla reg d).1) }

section
variable (s : State) (sla reg : Reg7) (d : Byte) (rep : Report) (l : Nat) (tr : List Traffic)

theorem slaveWrite_loaded : (s.loaded d).slaveWrite sla reg d =
    ((s.slaveWrite sla reg d).1, (s.slaveWrite sla reg d).2.loaded d) := by
  unfold State.slaveWrite State.loaded
  cases hbus : s.bus with
  | lawless => rfl
  | wellBehaved a f => by_cases hsla : sla = a <;> simp [hsla, hbus]

theorem concluded_read_agrees : (s.concluded .read sla reg rep l tr).agrees
    ((s.readAnswered sla reg).ended rep (handshake .read sla reg ++ tr)) := by
  simp [State.agrees, State.specPart, State.concluded, State.shaken, State.readAnswered, State.ended,
    controlWordOf_idle_eq_releaseWord]

theorem concluded_write_agrees : ((s.loaded d).concluded .write sla reg rep l tr).agrees
    ((s.writeAnswered sla reg d).ended rep (.write 48 [d] true :: (handshake .write sla reg ++ tr))) := by
  have hslave : (s.loaded d).slaveWrite sla reg (s.loaded d).txd = _ := slaveWrite_loaded s sla reg d
  simp [State.agrees, State.specPart, State.concluded, State.shaken, State.writeAnswered, State.ended,
    controlWordOf_idle_eq_releaseWord, hslave]
  simp [State.loaded]

end

/-! Failures after the handshake -/

section
variable {s : State} {op : Instr} {pc k : Nat} {b : State → Nat → Act} {rw : Direction} {sla reg : Reg7}

theorem doStatus_fail (hf : s.linkFails 0 = true) : s.doStatus op pc sla reg =
    State.raised { s with link := s.link.skip 1, trace := s.trace ++ [.read 47 3 none] } op (.transportFailure 47) := by
  simp [State.doStatus, State.readCommand, hf, State.record]

variable {bs : Option (List Byte)} (n : Nat) (he : s.eng = .idle) (hc : s.callerStays 4)
  (hb : ∀ u j, j < 6 → b u (k + j) = handshakePrim rw sla reg j) (hstatus : ∀ u, b u (k + 6) = .status sla reg)
include he hc hb hstatus

/-- The status READ fails, in an operation that reports its errors as they are. -/
theorem drive_status_fails (hop : Instr.plain op = true) (hl : s.linkUp 3) (hf : s.linkFails 3 = true) :
    ∃ t, drive b (n + 7) (s.inside op k bs) = .next t ∧
      t.agrees (s.concluded rw sla reg (.error (.transportFailure 47)) 4 [.read 47 3 none]) := by
  have hshaken : drive b (n + 1 + 6) (s.inside op k bs) = drive b (n + 1) ((s.shaken rw sla reg).inside op (k + 6) bs) := by
    rw [drive_handshake (s := s.inside op k bs) (pc := k) (n + 1) rfl he hl hc (fun u => hb u 0 (by decide))
      (fun u => hb u 1 (by decide)) (fun u => hb u 2 (by decide)) (fun u => hb u 3 (by decide))
      (fun u => hb u 4 (by decide)) (fun u => hb u 5 (by decide)),
      shaken_inside, inside_moveTo]
  have hfails : ((s.shaken rw sla reg).inside op (k + 6) bs).linkFails 0 = true := by
    simpa [State.linkFails, State.inside] using hf
  refine ⟨_, hshaken.trans (drive_ends rfl (hstatus _) (congrArg Host.Outcome.next (doStatus_fail hfails))
    (raised_atRest _ _ _)), ?_⟩
  simp [State.agrees, State.specPart, State.raised, State.inside, State.concluded, restPhase_of_plain hop,
    reportOf_of_plain hop]

/-- The handshake and its check, the slave acknowledging. -/
theorem drive_acknowledged (hl : s.linkUp 4) (hack : (s.shaken rw sla reg).nack = some false) :
    drive b (n + 7) (s.inside op k bs) = drive b n
      ((s.concluded rw sla reg .none 4 [.read 47 3 (some (s.statusWord false))]).inside op (k + 7)
        (some (s.statusWord false))) :=
  drive_checked (ack := true) n he hl hc (fun u => hb u 0 (by decide)) (fun u => hb u 1 (by decide))
      (fun u => hb u 2 (by decide)) (fun u => hb u 3 (by decide)) (fun u => hb u 4 (by decide)) (fun u => hb u 5 (by decide))
      hstatus hack

end

/-! I2C_READ_BYTE -/

section
variable {s : State} (hidle : s.phase = .idle) (he : s.eng = .idle) (hc : s.callerStays 4) (sla reg : Reg7)
include hidle he hc

theorem i2cRead_status_fails (hl : s.linkUp 3) (hf : s.linkFails 3 = true) :
    ∃ t, exec (.i2cReadByte reg.toNat sla.toNat) s = .next t ∧
      t.agrees (s.concluded .read sla reg (.error (.transportFailure 47)) 4 [.read 47 3 none]) := by
  obtain ⟨t, ht, hagrees⟩ := drive_status_fails (op := .i2cReadByte reg.toNat sla.toNat) (k := 0) (bs := none) 57 he hc
    (fun u _ => i2cRead_body sla reg u) (fun u => i2cReadByteBody_of reg sla u 6) rfl hl hf
  exact ⟨t, (request_idle hidle).trans ht, hagrees⟩

theorem i2cRead_data_fails (hl : s.linkUp 4) (hf : s.linkFails 4 = true) (hack : (s.slaveRead sla reg).1.ack = true) :
    ∃ t, exec (.i2cReadByte reg.toNat sla.toNat) s = .next t ∧
      t.agrees (s.concluded .read sla reg (.error (.transportFailure 48)) 5
        [.read 47 3 (some (s.statusWord false)), .read 48 1 none]) := by
  have hnack : (s.shaken .read sla reg).nack = some false := by simp [State.shaken, hack]
  have hchecked := drive_acknowledged (op := .i2cReadByte reg.toNat sla.toNat) (k := 0) (bs := none) 57 he hc
    (fun u _ => i2cRead_body sla reg u) (fun u => i2cReadByteBody_of reg sla u 6) hl hnack
  refine ⟨_, (request_idle hidle).trans (hchecked.trans (drive_ends rfl (i2cReadByteBody_of reg sla _ 7)
    (congrArg Host.Outcome.next (doRead_fail rfl ?_)) (raised_atRest _ _ _))), ?_⟩
  · simpa [State.linkFails, State.inside, State.concluded] using hf
  · simp [State.agrees, State.specPart, State.raised, State.inside, State.concluded, restPhase, reportOf]

end

/-! I2C_WRITE_BYTE -/

section
variable {s : State} (hidle : s.phase = .idle) (sla reg : Reg7) (d : Byte)
include hidle

/-- The data WRITE fails, whatever the engine's state. -/
theorem i2cWrite_data_fails (hf : s.linkFails 0 = true) :
    ∃ t b, exec (.i2cWriteByte reg.toNat d sla.toNat) s = .next t ∧
      t.agrees (State.failed { s with txd := b } (.transportFailure 48) [.write 48 [d] false]) := by
  refine ⟨_, s.noiseAt 0, (request_idle hidle).trans (drive_ends (n := 63) rfl (i2cWriteByteBody_of reg sla d _ 0)
    (congrArg Host.Outcome.next (doWrite_fail rfl rfl hf)) (raised_atRest _ _ _)), ?_⟩
  rfl

variable (he : s.eng = .idle)
include he

theorem i2cWrite_loaded (hl : s.linkFails 0 = false) : exec (.i2cWriteByte reg.toNat d sla.toNat) s =
    drive (i2cWriteByteBody reg.toNat d sla.toNat) 63 ((s.loaded d).inside (.i2cWriteByte reg.toNat d sla.toNat) 1 none) := by
  have hdata : (s.accept (.i2cWriteByte reg.toNat d sla.toNat)).doWrite (.i2cWriteByte reg.toNat d sla.toNat) 0 48 [d] =
      (s.loaded d).inside (.i2cWriteByte reg.toNat d sla.toNat) 1 none := by
    rw [doWrite_ok rfl rfl (by exact hl), store_txd, transmitWrite_idle (by exact he)]
    rfl
  exact (request_idle hidle).trans (drive_performs rfl (i2cWriteByteBody_of reg sla d _ 0)
    (congrArg Host.Outcome.next hdata))

theorem i2cWrite_status_fails (hc : s.callerStays 4) (hl : s.linkUp 4) (hf : s.linkFails 4 = true) :
    ∃ t, exec (.i2cWriteByte reg.toNat d sla.toNat) s = .next t ∧
      t.agrees ((s.loaded d).concluded .write sla reg (.error (.transportFailure 47)) 4 [.read 47 3 none]) := by
  have hfails : ∀ j, (s.loaded d).linkFails j = s.linkFails (1 + j) := fun j => by simp [State.linkFails, State.loaded]
  obtain ⟨t, ht, hagrees⟩ := drive_status_fails (s := s.loaded d) (op := .i2cWriteByte reg.toNat d sla.toNat) (k := 1)
    (bs := none) 56 he hc (fun u _ => i2cWrite_body sla reg d u) (fun u => i2cWriteByteBody_of reg sla d u 7) rfl
    (fun j hj => (hfails j).trans (hl (1 + j) (by omega))) ((hfails 3).trans hf)
  exact ⟨t, (i2cWrite_loaded hidle sla reg d he (hl 0 (by omega))).trans ht, hagrees⟩

end

/-! The obligations -/

/-- R185, R186: a number above 127 is refused. -/
theorem i2cNumbers_of_above {n m : Nat} (h : 127 < n ∨ 127 < m) (k : Reg7 → Reg7 → Act) :
    i2cNumbers n m k = .refuse .i2cAddress := if_pos h

/-- Bit 0 of a status word is the flag it was read with. -/
theorem statusWord_eq (s : State) (n : Bool) : ∃ st0 st1 st2, s.statusWord n = [st0, st1, st2] ∧ st0.getLsbD 0 = n :=
  ⟨_, _, _, rfl, statusFirst_bit_zero n _⟩

/-- Settles O42: the closed form of the byte read gives its results, and its two other failures end it after the handshake. -/
theorem i2cReadByteRunsTheHandshake : Obligations.I2cReadByteRunsTheHandshake := by
  intro s sla reg hidle
  refine ⟨fun he hc => ⟨fun hl => ?complete, fun hl hf => ?status, fun hl hf hack => ?data⟩, fun n m h => ?refused⟩
  case complete =>
    obtain ⟨st0, st1, st2, hword, hbit⟩ := statusWord_eq s (!(s.slaveRead sla reg).1.ack)
    refine ⟨st0, st1, st2, _, i2cRead_closed hidle he hl hc, hbit, fun hack => ?_, fun hack => ?_⟩
    · rw [hack, Bool.not_true] at hword
      rw [if_pos hack, hword]
      exact concluded_read_agrees s sla reg _ _ _
    · rw [hack, Bool.not_false] at hword
      rw [if_neg (Bool.not_eq_true _ ▸ hack), hword]
      exact concluded_read_agrees s sla reg _ _ _
  case status =>
    obtain ⟨t, ht, hagrees⟩ := i2cRead_status_fails hidle he hc sla reg hl hf
    exact ⟨t, ht, hagrees.trans (concluded_read_agrees s sla reg _ _ _)⟩
  case data =>
    obtain ⟨st0, st1, st2, hword, hbit⟩ := statusWord_eq s false
    obtain ⟨t, ht, hagrees⟩ := i2cRead_data_fails hidle he hc sla reg hl hf hack
    rw [hword] at hagrees
    exact ⟨st0, st1, st2, t, ht, hbit, hagrees.trans (concluded_read_agrees s sla reg _ _ _)⟩
  case refused => exact isRefused_of rfl hidle rfl (i2cNumbers_of_above h _)

/-- Settles O43: the closed form of the byte write gives its results; its data WRITE can fail before the handshake and its
status READ after it. -/
theorem i2cWriteByteRunsTheHandshake : Obligations.I2cWriteByteRunsTheHandshake := by
  intro s sla reg d hidle
  refine ⟨fun he hc => ⟨fun hl => ?complete, fun hl hf => ?status⟩, fun hf => ?data, fun n m h => ?refused⟩
  case complete =>
    obtain ⟨st0, st1, st2, hword, hbit⟩ := statusWord_eq s (!(s.slaveWrite sla reg d).1)
    refine ⟨st0, st1, st2, _, i2cWrite_closed hidle he hl hc, hbit, fun hack => ?_, fun hack => ?_⟩
    · rw [if_pos hack, hword]
      exact concluded_write_agrees s sla reg d _ _ _
    · rw [if_neg (Bool.not_eq_true _ ▸ hack), hword]
      exact concluded_write_agrees s sla reg d _ _ _
  case status =>
    obtain ⟨t, ht, hagrees⟩ := i2cWrite_status_fails hidle sla reg d he hc hl hf
    exact ⟨t, ht, hagrees.trans (concluded_write_agrees s sla reg d _ _ _)⟩
  case data => exact i2cWrite_data_fails hidle sla reg d hf
  case refused => exact isRefused_of rfl hidle rfl (i2cNumbers_of_above h _)

end Sys2Proof.Machine
end

section
/-! Byte operations on a well-behaved slave (spec/10_state.md R50 WB_SLAVE, spec/45_i2c_master.md R188): each leaves a slave that
can be asked again, and has taken five draws of the transport and four of the caller. -/

namespace Sys2Proof.Machine

/-! A slave that can be asked, and what the questions leave -/

/-- The engine is idle, its slave sla is well-behaved with register file f, and k byte operations meet no failure. -/
structure State.SlaveReady (s : State) (sla : Reg7) (f : Memory) (k : Nat) : Prop where
  phase : s.phase = .idle
  eng : s.eng = .idle
  bus : s.bus = .wellBehaved sla f
  form : Memory.wf f = true
  link : s.linkUp (5 * k)
  caller : s.callerStays (4 * k)

/-- s once its slave's register file is f, with the I2C latches as the byte operations leave them. -/
def State.spoken (s : State) (sla : Reg7) (f : Memory) (latch : Option ControlWord) (txd : Byte) (rxd : Option Byte) : State :=
  { s with bus := .wellBehaved sla f, ctlLatch := latch, txd := txd, rxd := rxd, nack := some false }

/-- t is s after k byte operations, of which the last returned r: the slave's register file is f and the transmit byte d. -/
def Programmed (sla : Reg7) (s t : State) (f : Memory) (d : Byte) (r : Result) (k : Nat) : Prop :=
  ∃ tr latch rxd, commandCount tr = 5 * k ∧ t.agrees ((s.spoken sla f latch d rxd).finished r tr)

section
variable {sla : Reg7} {s t u : State} {f g : Memory} {d e : Byte} {r q : Result} {j k : Nat}

theorem Programmed.report (h : Programmed sla s t f d r k) : t.report = .ok r := by
  obtain ⟨_, _, _, _, hagrees⟩ := h
  exact congrArg State.report hagrees

theorem commandCount_append (tr tr' : List Traffic) : commandCount (tr ++ tr') = commandCount tr + commandCount tr' :=
  List.countP_append

/-- Byte operations one after the other. -/
theorem Programmed.trans (h : Programmed sla s t f d r j) (h' : Programmed sla t u g e q k) :
    Programmed sla s u g e q (j + k) := by
  obtain ⟨tr, _, _, hcount, hagrees⟩ := h
  obtain ⟨tr', latch, rxd, hcount', hagrees'⟩ := h'
  have hfirst := congrArg (fun v => ((State.spoken v sla g latch e rxd).finished q tr').specPart) hagrees
  refine ⟨tr ++ tr', latch, rxd, by rw [commandCount_append, hcount, hcount', Nat.mul_add], hagrees'.trans (hfirst.trans ?_)⟩
  simp [State.specPart, State.spoken, State.finished, State.ended]

/-- Returning nothing after a byte operation. -/
theorem Programmed.nothing (h : Programmed sla s t f d r k) :
    Programmed sla s { t with report := .ok .nothing } f d .nothing k := by
  obtain ⟨tr, latch, rxd, hcount, hagrees⟩ := h
  have hreport := congrArg (fun v : State => { v with report := .ok .nothing }) hagrees
  exact ⟨tr, latch, rxd, hcount, hreport⟩

theorem callerStays_of_skip {m n : Nat} (ht : t.caller = s.caller.skip m) (hc : s.callerStays (m + n)) : t.callerStays n :=
  fun i hi => by
    have hstops : t.callerStops i = s.callerStops (m + i) := by simp [State.callerStops, ht]
    exact hstops.trans (hc (m + i) (by omega))

/-- After a byte operation the slave can be asked again. -/
theorem State.SlaveReady.next (h : s.SlaveReady sla f (k + 1)) (ht : Programmed sla s t g d r 1) (hg : Memory.wf g = true)
    (hlink : t.link = s.link.skip 5) (hcaller : t.caller = s.caller.skip 4) : t.SlaveReady sla g k := by
  obtain ⟨_, _, _, _, hagrees⟩ := ht
  exact {
    phase := congrArg State.phase hagrees
    eng := (congrArg State.eng hagrees).trans h.eng
    bus := congrArg State.bus hagrees
    form := hg
    link := linkUp_of_skip hlink (by simpa [Nat.mul_add, Nat.add_comm] using h.link)
    caller := callerStays_of_skip hcaller (by simpa [Nat.mul_add, Nat.add_comm] using h.caller) }

/-! The two byte operations -/

theorem State.SlaveReady.linkUp (h : s.SlaveReady sla f (k + 1)) : s.linkUp 5 :=
  fun i hi => h.link i (by omega)

theorem State.SlaveReady.callerStays (h : s.SlaveReady sla f (k + 1)) : s.callerStays 4 :=
  fun i hi => h.caller i (by omega)

/-- A byte written to a register of the slave is in its file (R186, R50). -/
theorem State.SlaveReady.writes (h : s.SlaveReady sla f (k + 1)) (reg : Reg7) (d : Byte) :
    ∃ t, exec (.i2cWriteByte reg.toNat d sla.toNat) s = .next t ∧ t.SlaveReady sla (Memory.write f reg.toNat d) k ∧
      Programmed sla s t (Memory.write f reg.toNat d) d .nothing 1 := by
  have hslave := slaveWrite_wellBehaved h.bus sla reg d
  rw [if_pos rfl] at hslave
  have hexec := i2cWrite_closed (sla := sla) (reg := reg) (d := d) h.phase h.eng h.linkUp h.callerStays
  rw [hslave, if_pos rfl] at hexec
  have hagrees := concluded_write_agrees s sla reg d (.ok .nothing) 4 [.read 47 3 (some (s.statusWord false))]
  simp only [State.writeAnswered, hslave] at hagrees
  have hprog : Programmed sla s _ (Memory.write f reg.toNat d) d .nothing 1 := ⟨_, _, _, rfl, hagrees⟩
  exact ⟨_, hexec, h.next hprog (Memory.wf_write h.form reg d)
    (by simp [State.concluded, State.loaded]) (by simp [State.concluded, State.loaded]), hprog⟩

/-- A byte read of a register of the slave returns what its file holds (R185, R50). -/
theorem State.SlaveReady.reads (h : s.SlaveReady sla f (k + 1)) (reg : Reg7) :
    ∃ t, exec (.i2cReadByte reg.toNat sla.toNat) s = .next t ∧ t.SlaveReady sla f k ∧
      Programmed sla s t f s.txd (.byte (Memory.read f reg.toNat)) 1 := by
  have hslave := slaveRead_wellBehaved h.bus sla reg
  rw [if_pos rfl] at hslave
  have hexec := i2cRead_closed (sla := sla) (reg := reg) h.phase h.eng h.linkUp h.callerStays
  rw [hslave, if_pos rfl] at hexec
  have hagrees := concluded_read_agrees s sla reg (.ok (.byte (Memory.read f reg.toNat))) 5
    [.read 47 3 (some (s.statusWord false)), .read 48 1 (some [Memory.read f reg.toNat])]
  simp only [State.readAnswered, hslave, h.bus] at hagrees
  have hprog : Programmed sla s _ f s.txd (.byte (Memory.read f reg.toNat)) 1 := ⟨_, _, _, rfl, hagrees⟩
  exact ⟨_, hexec, h.next hprog h.form (by simp [State.concluded]) (by simp [State.concluded]), hprog⟩

end

/-- Settles O45: the write leaves a slave whose file holds the byte, and the read returns it. -/
theorem i2cRoundTrip : Obligations.I2cRoundTrip := by
  intro s sla reg d f hidle heng hbus hform hlink hcaller
  have hready : s.SlaveReady sla f 2 := ⟨hidle, heng, hbus, hform, hlink, hcaller⟩
  obtain ⟨u, hwrite, hu, -⟩ := hready.writes reg d
  obtain ⟨t, hread, ht, hprog⟩ := hu.reads reg
  have hfile : ∀ r : Reg7, Memory.read (Memory.write f reg.toNat d) r.toNat =
      if r = reg then d else Memory.read f r.toNat := fun r => Memory.read_write_reg hform reg r d
  refine ⟨t, Memory.write f reg.toNat d, ?_, ?_, ht.eng, ht.bus, ht.form, hfile⟩
  · rw [execAll_cons hwrite, execAll_cons hread]
    rfl
  · rw [hprog.report, hfile reg, if_pos rfl]

end Sys2Proof.Machine
end

section
/-! PLL programming on a well-behaved chip (spec/46_pll_programming.md R196 to R200): the sequence of byte operations of each
setup, run on the chip's register file. -/

namespace Sys2Proof.Machine

/-! The bytes composed, bit by bit -/

/-- R196: the overflow bits and the two flags; every other bit as read. -/
theorem pllHiByte_getLsbD (p : PllMap) (n m : Nat) (bypass highspeed : Bool) (h : Byte) {j : Nat} (hj : j < 8) :
    (pllHiByte p n m bypass highspeed h).getLsbD j =
      if j = p.hsBit.val then highspeed
      else if j = p.bypassBit.val then bypass
      else if p.nHiLo ≤ j ∧ j < p.nHiLo + (p.nW - 8) then n.testBit (8 + (j - p.nHiLo))
      else if p.mHiLo ≤ j ∧ j < p.mHiLo + (p.mW - 8) then m.testBit (8 + (j - p.mHiLo))
      else h.getLsbD j := by
  have hbit : ∀ (x lo : Nat), (BitVec.ofNat 8 (x >>> 8)).getLsbD (j - lo) = x.testBit (8 + (j - lo)) := fun x lo => by
    rw [BitVec.getLsbD_ofNat, Nat.testBit_shiftRight, decide_eq_true (by omega), Bool.true_and]
  simp only [pllHiByte]
  rw [setbits_bitReplaced _ _ _ j hj, setbits_bitReplaced _ _ _ j hj, setbits_getLsbD _ _ _ _ j hj,
    setbits_getLsbD _ _ _ _ j hj, hbit, hbit]

/-- R195, R196: a bit of KEEP_MASK is in no field, so it is as read. -/
theorem pllHiByte_keeps (b : Board) (n m : Nat) (bypass highspeed : Bool) (h : Byte) {j : Nat} (hj : j < 8)
    (hkeep : b.params.pll.keepMask.getLsbD j = true) :
    (pllHiByte b.params.pll n m bypass highspeed h).getLsbD j = h.getLsbD j := by
  have hone := b.hi_fields_disjoint hj
  simp only [hkeep, Bool.toNat_true, Nat.add_eq_right, Nat.add_eq_zero_iff, Bool.toNat_eq_zero, decide_eq_false_iff_not,
    ← Bool.decide_and] at hone
  obtain ⟨⟨⟨hm, hn⟩, hbypass⟩, hhighspeed⟩ := hone
  rw [pllHiByte_getLsbD _ _ _ _ _ _ hj, if_neg hhighspeed, if_neg hbypass, if_neg hn, if_neg hm]

/-- A field of a byte composed from 0. -/
theorem ofNat_shiftLeft_getLsbD {x w lo j : Nat} (hx : x < 2 ^ w) (hj : j < 8) :
    (BitVec.ofNat 8 x <<< lo).getLsbD j = if lo ≤ j ∧ j < lo + w then x.testBit (j - lo) else false := by
  simp only [BitVec.getLsbD_shiftLeft, BitVec.getLsbD_ofNat, hj, decide_true, Bool.true_and, show j - lo < 8 by omega]
  by_cases hlo : j < lo
  · rw [if_neg (by omega), decide_eq_true hlo]
    rfl
  · rw [decide_eq_false hlo, Bool.not_false, Bool.true_and]
    by_cases hhi : j < lo + w
    · rw [if_pos (by omega)]
    · rw [if_neg (by omega), Nat.testBit_lt_two_pow (hx.trans_le (Nat.pow_le_pow_right Nat.two_pos (by omega)))]

theorem bitOf_shiftLeft_getLsbD (on : Bool) {k j : Nat} (hj : j < 8) :
    (bitOf on <<< k).getLsbD j = if j = k then on else false := by
  by_cases hk : j = k
  · simp [hk ▸ hj, hk]
  · simp [hk]
    omega

/-- Where at most one of four conditions holds, the bits under them are united by asking them in turn. -/
theorem or_of_disjoint {a b c d : Prop} [Decidable a] [Decidable b] [Decidable c] [Decidable d]
    (h : (decide a).toNat + (decide b).toNat + (decide c).toNat + (decide d).toNat ≤ 1) (x y z w : Bool) :
    ((if a then x else false) || (if b then y else false) || (if c then z else false) || (if d then w else false)) =
      if a then x else if b then y else if c then z else if d then w else false := by
  by_cases ha : a
  · obtain ⟨hb, hc, hd⟩ : ¬b ∧ ¬c ∧ ¬d := by simpa [ha, Nat.add_assoc] using h
    simp [ha, hb, hc, hd]
  by_cases hb : b
  · obtain ⟨hc, hd⟩ : ¬c ∧ ¬d := by simpa [ha, hb, Nat.add_assoc] using h
    simp [ha, hb, hc, hd]
  by_cases hc : c
  · have hd : ¬d := by simpa [ha, hb, hc] using h
    simp [ha, hb, hc, hd]
  · simp [ha, hb, hc]

/-- R195, R199: the output byte's fields are disjoint, so each of its bits is its field's. -/
theorem pllOutputByte_getLsbD (b : Board) (invert enabled : Bool) {source slew j : Nat} (hsource : source < 2 ^ 3)
    (hslew : slew < 2 ^ 2) (hj : j < 8) :
    let p := b.params.pll
    (pllOutputByte p invert enabled source slew).getLsbD j =
      if j = p.outEnBit.val then enabled
      else if j = p.outInvBit.val then invert
      else if p.outSlewLo.val ≤ j ∧ j < p.outSlewLo.val + 2 then slew.testBit (j - p.outSlewLo.val)
      else if p.outDivLo.val ≤ j ∧ j < p.outDivLo.val + 3 then source.testBit (j - p.outDivLo.val)
      else false := by
  intro p
  have hone := b.output_fields_disjoint hj
  simp only [← Bool.decide_and] at hone
  simp only [pllOutputByte, BitVec.getLsbD_or, bitOf_shiftLeft_getLsbD _ hj, ofNat_shiftLeft_getLsbD hslew hj,
    ofNat_shiftLeft_getLsbD hsource hj]
  exact or_of_disjoint hone enabled invert _ _

/-- R200: one of the two select bits of the second register, the other off. -/
theorem pllCs2Byte_getLsbD (b : Board) (diff : Bool) (old : Byte) {j : Nat} (hj : j < 8) :
    let p := b.params.pll
    (pllCs2Byte p diff old).getLsbD j =
      if j = p.csDiffBit.val then diff else if j = p.csSeBit.val then !diff else old.getLsbD j := by
  intro p
  obtain ⟨-, -, -, -, -, -, -, -, hbits, -⟩ := b.pll_facts
  have hne : p.csDiffBit.val ≠ p.csSeBit.val := fun h => hbits (Fin.ext h)
  rw [pllCs2Byte, setbits_bitReplaced _ _ _ j hj, setbits_bitReplaced _ _ _ j hj]
  by_cases hdiff : j = p.csDiffBit.val
  · rw [if_neg (hdiff ▸ hne), if_pos hdiff, if_pos hdiff]
  · rw [if_neg hdiff, if_neg hdiff]

/-! Byte operations on the chip -/

section
variable {s : State} {f : Memory} {k : Nat}

/-- A byte write, followed by the rest of a setup. -/
theorem State.SlaveReady.writes_then (h : s.SlaveReady pllSla f (k + 1)) (reg : Reg7) (d : Byte) :
    ∃ u, (∀ next, andThen (exec (.i2cWriteByte reg.toNat d 0x69) s) next = next .nothing u) ∧
      u.SlaveReady pllSla (Memory.write f reg.toNat d) k ∧
      Programmed pllSla s u (Memory.write f reg.toNat d) d .nothing 1 := by
  obtain ⟨u, hexec, hu, hprog⟩ := h.writes reg d
  have hexec : exec (.i2cWriteByte reg.toNat d 0x69) s = .next u := hexec
  exact ⟨u, fun next => by rw [hexec, andThen_ok hprog.report], hu, hprog⟩

/-- A byte read, followed by the rest of a setup. -/
theorem State.SlaveReady.reads_then (h : s.SlaveReady pllSla f (k + 1)) (reg : Reg7) :
    ∃ u, (∀ next, andThen (exec (.i2cReadByte reg.toNat 0x69) s) next = next (.byte (Memory.read f reg.toNat)) u) ∧
      u.SlaveReady pllSla f k ∧ Programmed pllSla s u f s.txd (.byte (Memory.read f reg.toNat)) 1 := by
  obtain ⟨u, hexec, hu, hprog⟩ := h.reads reg
  have hexec : exec (.i2cReadByte reg.toNat 0x69) s = .next u := hexec
  exact ⟨u, fun next => by rw [hexec, andThen_ok hprog.report], hu, hprog⟩

/-- A byte read and changed, the WRITE skipped where the change is none: the file then holds the changed byte. -/
theorem State.SlaveReady.changes (h : s.SlaveReady pllSla f (k + 2)) (reg : Reg7) (change : Byte → Byte) :
    let old := Memory.read f reg.toNat
    ∃ t g d,
      andThen (exec (.i2cReadByte reg.toNat 0x69) s) (fun r u =>
        if change (byteOf r) = byteOf r then .next { u with report := .ok .nothing }
        else exec (.i2cWriteByte reg.toNat (change (byteOf r)) 0x69) u) = .next t ∧
      (∀ r : Reg7, Memory.read g r.toNat = if r = reg then change old else Memory.read f r.toNat) ∧ Memory.wf g = true ∧
      Programmed pllSla s t g d .nothing (if change old = old then 1 else 2) := by
  intro old
  obtain ⟨u, hread, hu, huprog⟩ := h.reads_then reg
  by_cases hsame : change old = old
  · refine ⟨_, f, s.txd, (hread _).trans (if_pos hsame), fun r => ?_, h.form, ?_⟩
    · by_cases hr : r = reg
      · rw [if_pos hr, hsame, hr]
      · rw [if_neg hr]
    · rw [if_pos hsame]
      exact huprog.nothing
  · obtain ⟨t, hwrite, ht, htprog⟩ := hu.writes reg (change old)
    refine ⟨t, _, change old, (hread _).trans ((if_neg hsame).trans hwrite),
      fun r => Memory.read_write_reg h.form reg r _, ht.form, ?_⟩
    rw [if_neg hsame]
    exact huprog.trans htprog

end

/-! The obligations -/

/-- Settles O49: three byte writes and a byte read, on three distinct registers. -/
theorem pllSetupPllProgramsTheChip : Obligations.PllSetupPllProgramsTheChip := by
  intro s n m bypass highspeed f hidle heng hbus hform hlink hcaller p hn hm
  have hready : s.SlaveReady pllSla f 4 := ⟨hidle, heng, hbus, hform, hlink, hcaller⟩
  obtain ⟨-, -, hsequence⟩ := pllSetupPllIsItsSequence s n m 1 bypass highspeed hidle
  obtain ⟨hregs, -⟩ := s.cfg.pll_facts
  simp only [List.nodup_cons, List.mem_cons, List.not_mem_nil, or_false, not_or] at hregs
  obtain ⟨⟨hmn, hmhi⟩, hnhi, -⟩ := hregs
  obtain ⟨u1, hwriteM, h1, hprog1⟩ := hready.writes_then p.mReg (BitVec.ofNat 8 m)
  obtain ⟨u2, hwriteN, h2, hprog2⟩ := h1.writes_then p.nReg (BitVec.ofNat 8 n)
  obtain ⟨u3, hreadHi, h3, hprog3⟩ := h2.reads_then p.hiReg
  have hhi : Memory.read (Memory.write (Memory.write f p.mReg.toNat (BitVec.ofNat 8 m)) p.nReg.toNat (BitVec.ofNat 8 n))
      p.hiReg.toNat = Memory.read f p.hiReg.toNat := by
    rw [Memory.read_write_reg h1.form, if_neg (Ne.symm hnhi), Memory.read_write_reg hform, if_neg (Ne.symm hmhi)]
  obtain ⟨t, hwriteHi, h4, hprog4⟩ :=
    h3.writes p.hiReg (pllHiByte p n m bypass highspeed (Memory.read f p.hiReg.toNat))
  obtain ⟨tr, latch, rxd, hcount, hagrees⟩ := ((hprog1.trans hprog2).trans hprog3).trans hprog4
  refine ⟨_, _, t, tr, latch, _, rxd, fun j hj => pllHiByte_getLsbD p n m bypass highspeed _ hj,
    fun j hj hkeep => pllHiByte_keeps s.cfg n m bypass highspeed _ hj hkeep, fun r => ?file, h4.form, hcount, ?exec, hagrees⟩
  case file => rw [Memory.read_write_reg h2.form, Memory.read_write_reg h1.form, Memory.read_write_reg hform]
  case exec =>
    refine (hsequence hn hm rfl).trans ((hwriteM _).trans ((hwriteN _).trans ((hreadHi _).trans ?_)))
    rw [pllHiByte_eq, ← hhi] at hwriteHi
    exact hwriteHi

/-- Settles O50: a byte write, then the change of the shared register. -/
theorem pllSetupDividerProgramsTheChip : Obligations.PllSetupDividerProgramsTheChip := by
  intro s setting source d f hidle heng hbus hform hlink hcaller hlo hhi hsource hd p f1 old
  have hready : s.SlaveReady pllSla f 3 := ⟨hidle, heng, hbus, hform, hlink, hcaller⟩
  obtain ⟨-, -, -, hsequence⟩ := pllSetupDividerIsItsSequence s setting source d hidle
  obtain ⟨u, hwrite, hu, huprog⟩ := hready.writes_then (p.divReg.get d) (BitVec.ofNat 8 setting)
  obtain ⟨t, g, txd, hchange, hfile, hg, htprog⟩ :=
    hu.changes (p.srcReg d) (fun b => setbits b (p.srcShift.get d) 3 (BitVec.ofNat 8 source))
  obtain ⟨tr, latch, rxd, hcount, hagrees⟩ := huprog.trans htprog
  refine ⟨_, g, t, tr, latch, txd, rxd, setbits_fieldReplaced old _ _ 3, fun r => ?file, hg, ?count,
    (hsequence (by omega) (by omega) hlo hhi).trans ((hwrite _).trans hchange), hagrees⟩
  case file => rw [hfile r, Memory.read_write_reg hform (p.divReg.get d) r]
  case count =>
    rw [hcount]
    split <;> rfl

/-- Settles O51: one byte write. -/
theorem pllSetupOutputWritesOneByte : Obligations.PllSetupOutputWritesOneByte := by
  intro s out source slew invert enabled f hidle heng hbus hform hlink hcaller hout hsource hslew p
  have hready : s.SlaveReady pllSla f 1 := ⟨hidle, heng, hbus, hform, hlink, hcaller⟩
  obtain ⟨-, -, hsequence⟩ := pllSetupOutputIsItsSequence s out source slew invert enabled hidle
  have hreg : (pllOutputReg p out).toNat = p.outBase + out := pllOutputReg_toNat s.cfg (by omega)
  obtain ⟨t, hwrite, ht, hprog⟩ := hready.writes (pllOutputReg p out) (pllOutputByte p invert enabled source slew)
  obtain ⟨tr, latch, rxd, hcount, hagrees⟩ := hprog
  refine ⟨_, _, t, tr, latch, rxd,
    fun j hj => pllOutputByte_getLsbD s.cfg invert enabled (by omega) (by omega) hj, fun r => ?file, ht.form, hcount,
    (hsequence (by omega) (by omega) (by omega)).trans ?exec, hagrees⟩
  case file =>
    rw [Memory.read_write_reg hform, ← hreg]
    simp only [BitVec.toNat_inj]
    rfl
  case exec =>
    rw [hreg] at hwrite
    exact hwrite

/-- Settles O52: the patch of the first register where the condition holds, then the change of the second. -/
theorem pllSetupClockSourceProgramsTheChip : Obligations.PllSetupClockSourceProgramsTheChip := by
  intro s diff in0 in1 f hidle heng hbus hform hlink hcaller hin p first old
  have hready : s.SlaveReady pllSla f 4 := ⟨hidle, heng, hbus, hform, hlink, hcaller⟩
  obtain ⟨-, hsequence⟩ := pllSetupClockSourceIsItsSequence s diff in0 in1 hidle
  obtain ⟨-, -, -, -, -, -, -, -, -, hregs⟩ := s.cfg.pll_facts
  have hfirst : BitReplaced (Memory.read f p.cs1Reg.toNat) p.cs1Bit.val (p.cs1Val.look diff in0 in1) _ :=
    setbits_bitReplaced _ _ _
  have hsecond : ∀ j, j < 8 → (pllCs2Byte p diff old).getLsbD j = _ := fun j hj => pllCs2Byte_getLsbD s.cfg diff old hj
  refine ⟨pllCs1Byte p diff in0 in1 (Memory.read f p.cs1Reg.toNat), pllCs2Byte p diff old, ?_⟩
  cases hcond : first with
  | false =>
    obtain ⟨t, g, txd, hchange, hfile, hg, tr, latch, rxd, hcount, hagrees⟩ := hready.changes p.cs2Reg (pllCs2Byte p diff)
    refine ⟨g, t, tr, latch, txd, rxd, hfirst, hsecond, fun r => ?file, hg, ?count, ?exec, hagrees⟩
    case file => simp [hfile r, old]
    case count =>
      rw [hcount]
      split <;> rfl
    case exec => exact (hsequence hin).trans ((if_neg (Bool.not_eq_true _ ▸ hcond)).trans hchange)
  | true =>
    obtain ⟨u, hread, hu, huprog⟩ := hready.reads_then p.cs1Reg
    obtain ⟨w, hwrite, hw, hwprog⟩ := hu.writes_then p.cs1Reg (pllCs1Byte p diff in0 in1 (Memory.read f p.cs1Reg.toNat))
    obtain ⟨t, g, txd, hchange, hfile, hg, htprog⟩ := hw.changes p.cs2Reg (pllCs2Byte p diff)
    rw [Memory.read_write_reg hform p.cs1Reg p.cs2Reg, if_neg (Ne.symm hregs)] at hfile htprog
    obtain ⟨tr, latch, rxd, hcount, hagrees⟩ := (huprog.trans hwprog).trans htprog
    refine ⟨g, t, tr, latch, txd, rxd, hfirst, hsecond, fun r => ?file, hg, ?count, ?exec, hagrees⟩
    case file =>
      rw [hfile r, Memory.read_write_reg hform p.cs1Reg r]
      simp [old]
    case count =>
      rw [hcount]
      split <;> rfl
    case exec =>
      exact (hsequence hin).trans ((if_pos hcond).trans ((hread _).trans ((hwrite _).trans hchange)))

end Sys2Proof.Machine
end
